-- ==== Sys2Proof/Word.lean ====
section
/-!
DEFINITION. The word types of the engine. Widths are those of spec/00_scope.md R6, R7 and
spec/30_encoding.md R70, R73. Concatenation `a : b` of the spec is `a ++ b`, exclusive-or is `^^^`.
-/

namespace Sys2Proof

/-- A `u8` of R7: a frame byte, a table entry, the accumulator, an opcode, a status code. -/
abbrev Byte := BitVec 8

/-- A `u16` bit pattern of R7, R8: a delta, the response's data field. -/
abbrev Half := BitVec 16

/-- A command word, `CMD64` of R70. -/
abbrev CmdWord := BitVec 64

/-- A response word, `RSP32` of R73. -/
abbrev RspWord := BitVec 32

end Sys2Proof
end

