-- ==== Sys2Proof/Syntax.lean ====
section
/-!
DEFINITION. The commands: one constructor per row of spec/opcode_table.json, with the operands of
spec/30_encoding.md R72. An operand's type is its range, so every term of `Instr` is a command the
engine has an encoding for.
-/

namespace Sys2Proof

inductive Instr where
  /-- NOP, R170. -/
  | nop
  /-- CRC.INIT, R106. -/
  | crcInit
  /-- CRC.STEP `b`, R107. -/
  | crcStep (b : Byte)
  /-- TBL.READ `i`, R108. -/
  | tblRead (i : Byte)
  /-- FRM.PUSH `b`, R136. -/
  | frmPush (b : Byte)
  /-- FRM.LOAD `f0, …, f5` in wire order, R137. -/
  | frmLoad (f0 f1 f2 f3 f4 f5 : Byte)
  /-- FRM.DECODE, R138. -/
  | frmDecode
  /-- FRM.CLEAR, R139. -/
  | frmClear
  /-- FRM.ENCODE `idx, enc, stp`, the deltas as 16-bit patterns, R140. -/
  | frmEncode (idx : Byte) (enc stp : Half)
  /-- RD.REG `r`; a reserved number is a command too, and raises BAD_REGNUM when it runs (R79, R171). -/
  | rdReg (r : Byte)
  deriving DecidableEq, Repr

end Sys2Proof
end

