-- ==== Sys2Proof/WellFormed.lean ====
section
/-!
DEFINITION. Which written commands are well formed (spec/30_encoding.md R79). A term of `Instr`
carries its operands' ranges in its types, so the checks stand where a value can still be out of
range: on a command as it is WRITTEN for the assembler, with integer operands.
-/

namespace Sys2Proof

/-- A command with the integer operands a programmer wrote. -/
inductive AsmCmd where
  | nop
  | crcInit
  | crcStep (b : Int)
  | tblRead (i : Int)
  | frmPush (b : Int)
  | frmLoad (f0 f1 f2 f3 f4 f5 : Int)
  | frmDecode
  | frmClear
  | frmEncode (idx enc stp : Int)
  | rdReg (r : Int)
  deriving DecidableEq, Repr

/-- "An 8-bit operand … must lie in 0 to 255" (R79). -/
def fitsByte (v : Int) : Bool := decide (0 ≤ v) && decide (v ≤ 255)

/-- A 16-bit operand of FRM.ENCODE "may be written signed, from -32768 to 32767, or unsigned, from 0
to 65535" (R79). -/
def fitsHalf (v : Int) : Bool := decide (-32768 ≤ v) && decide (v ≤ 65535)

/-- The operands are ones the assembler does not refuse (R79). -/
def AsmCmd.wellFormed : AsmCmd → Bool
  | .nop => true
  | .crcInit => true
  | .crcStep b => fitsByte b
  | .tblRead i => fitsByte i
  | .frmPush b => fitsByte b
  | .frmLoad f0 f1 f2 f3 f4 f5 =>
    fitsByte f0 && fitsByte f1 && fitsByte f2 && fitsByte f3 && fitsByte f4 && fitsByte f5
  | .frmDecode => true
  | .frmClear => true
  | .frmEncode idx enc stp => fitsByte idx && fitsHalf enc && fitsHalf stp
  | .rdReg r => fitsByte r

end Sys2Proof
end

