-- ==== Sys2Proof/Decode.lean ====
section
/-!
DEFINITION. The decoder and the encoder (spec/30_encoding.md R70 to R79). Decoding is total: every
64-bit word is a command, an illegal opcode or a set reserved field (R75).
-/

namespace Sys2Proof

/-! ### The fields of a command word (R70, R71) -/

/-- `OP`, bits 63:56. -/
def opField (w : CmdWord) : Byte := w.extractLsb' 56 8
/-- `B0`, bits 55:48, the most significant payload byte. -/
def b0Field (w : CmdWord) : Byte := w.extractLsb' 48 8
/-- `B1`, bits 47:40. -/
def b1Field (w : CmdWord) : Byte := w.extractLsb' 40 8
/-- `B2`, bits 39:32. -/
def b2Field (w : CmdWord) : Byte := w.extractLsb' 32 8
/-- `B3`, bits 31:24. -/
def b3Field (w : CmdWord) : Byte := w.extractLsb' 24 8
/-- `B4`, bits 23:16. -/
def b4Field (w : CmdWord) : Byte := w.extractLsb' 16 8
/-- `B5`, bits 15:8. -/
def b5Field (w : CmdWord) : Byte := w.extractLsb' 8 8
/-- `RSV`, bits 7:0. -/
def rsvField (w : CmdWord) : Byte := w.extractLsb' 0 8
/-- `H1 = B1 : B2`, bits 47:32. -/
def h1Field (w : CmdWord) : Half := w.extractLsb' 32 16
/-- `H2 = B3 : B4`, bits 31:16. -/
def h2Field (w : CmdWord) : Half := w.extractLsb' 16 16

/-! ### The opcode map (R74) -/

/-- One row: the opcode, the match and mask of R74, and the operands R72 reads. -/
structure OpRow where
  opcode  : Byte
  pattern : CmdWord
  mask    : CmdWord
  operands : CmdWord → Instr

/-- The ten rows of R74. -/
def opcodeTable : List OpRow :=
  [ ⟨0x00, 0x0000000000000000, 0xFFFFFFFFFFFFFFFF, fun _ => .nop⟩,
    ⟨0x01, 0x0100000000000000, 0xFFFFFFFFFFFFFFFF, fun _ => .crcInit⟩,
    ⟨0x02, 0x0200000000000000, 0xFF00FFFFFFFFFFFF, fun w => .crcStep (b0Field w)⟩,
    ⟨0x03, 0x0300000000000000, 0xFF00FFFFFFFFFFFF, fun w => .tblRead (b0Field w)⟩,
    ⟨0x04, 0x0400000000000000, 0xFF00FFFFFFFFFFFF, fun w => .frmPush (b0Field w)⟩,
    ⟨0x05, 0x0500000000000000, 0xFF000000000000FF, fun w =>
      .frmLoad (b0Field w) (b1Field w) (b2Field w) (b3Field w) (b4Field w) (b5Field w)⟩,
    ⟨0x06, 0x0600000000000000, 0xFFFFFFFFFFFFFFFF, fun _ => .frmDecode⟩,
    ⟨0x07, 0x0700000000000000, 0xFFFFFFFFFFFFFFFF, fun _ => .frmClear⟩,
    ⟨0x08, 0x0800000000000000, 0xFF0000000000FFFF, fun w =>
      .frmEncode (b0Field w) (h1Field w) (h2Field w)⟩,
    ⟨0x09, 0x0900000000000000, 0xFF00FFFFFFFFFFFF, fun w => .rdReg (b0Field w)⟩ ]

/-- The row of an opcode; none for `0x0A` to `0xFF`. -/
def opRow (op : Byte) : Option OpRow := opcodeTable.find? (fun row => row.opcode == op)

/-- The three outcomes of R75. -/
inductive Decoded where
  /-- The command the word names. -/
  | instr (i : Instr)
  /-- R76: opcode `0x0A` to `0xFF`. -/
  | illegalOpcode
  /-- R77: a legal opcode with a must-be-zero field that is not zero. -/
  | reservedField
  deriving DecidableEq, Repr

/-- The decoder, in the order of R75. -/
def decode (w : CmdWord) : Decoded :=
  match opRow (opField w) with
  | none => .illegalOpcode
  | some row => if w &&& row.mask = row.pattern then .instr (row.operands w) else .reservedField

/-! ### The encoder -/

/-- The opcode of a command (R74). -/
def opcodeOf : Instr → Byte
  | .nop => 0x00
  | .crcInit => 0x01
  | .crcStep _ => 0x02
  | .tblRead _ => 0x03
  | .frmPush _ => 0x04
  | .frmLoad _ _ _ _ _ _ => 0x05
  | .frmDecode => 0x06
  | .frmClear => 0x07
  | .frmEncode _ _ _ => 0x08
  | .rdReg _ => 0x09

/-- The word of a command: the forms of R79, the fields laid out by R70. The zero tail after `B0` is
`B1` to `B5` and `RSV`, 48 bits (R70, R74; log 12). -/
def encode : Instr → CmdWord
  | .nop => 0x00#8 ++ 0#56
  | .crcInit => 0x01#8 ++ 0#56
  | .crcStep b => 0x02#8 ++ b ++ 0#48
  | .tblRead i => 0x03#8 ++ i ++ 0#48
  | .frmPush b => 0x04#8 ++ b ++ 0#48
  | .frmLoad f0 f1 f2 f3 f4 f5 => 0x05#8 ++ f0 ++ f1 ++ f2 ++ f3 ++ f4 ++ f5 ++ 0#8
  | .frmDecode => 0x06#8 ++ 0#56
  | .frmClear => 0x07#8 ++ 0#56
  | .frmEncode idx enc stp => 0x08#8 ++ idx ++ enc ++ stp ++ 0#16
  | .rdReg r => 0x09#8 ++ r ++ 0#48

/-! ### A command word on a byte-wide path (R54) -/

/-- The eight bytes of a word, "most significant first" (R54). -/
def wordBytes (w : CmdWord) : List Byte :=
  [opField w, b0Field w, b1Field w, b2Field w, b3Field w, b4Field w, b5Field w, rsvField w]

/-- The word whose bytes arrive most significant first; none for another number of bytes. -/
def wordOfBytes : List Byte → Option CmdWord
  | [op, b0, b1, b2, b3, b4, b5, rsv] => some (op ++ b0 ++ b1 ++ b2 ++ b3 ++ b4 ++ b5 ++ rsv)
  | _ => none

/-- The four bytes of a response word, most significant first (R54, R73). -/
def rspBytes (r : RspWord) : List Byte :=
  [r.extractLsb' 24 8, r.extractLsb' 16 8, r.extractLsb' 8 8, r.extractLsb' 0 8]

/-! ### The opcode table's own numbering -/

/-- The command word of which `w` gives the low `nbits` bits, the bits above being zero. Every row of
spec/opcode_table.json has 64 bits, bit 0 the least significant (log 4). -/
def tableWord (nbits w : Nat) : CmdWord := BitVec.ofNat 64 (w % 2 ^ nbits)

/-- The command the decoder reads from such a word, none where it refuses. -/
def decodeTableWord (nbits w : Nat) : Option Instr :=
  match decode (tableWord nbits w) with
  | .instr i => some i
  | .illegalOpcode => none
  | .reservedField => none

end Sys2Proof
end

