-- ==== Sys2Proof/Config.lean ====
section
/-!
DEFINITION. The parameters of one instance of the engine (spec/00_scope.md R4). `FRAME_LEN` (6),
`CRC_SPAN` (5) and `TABLE_SIZE` (256) are fixed and stand as lengths in the types and in the code.
`LATENCY` is left out: no rule depends on it (R241; log 7).
-/

namespace Sys2Proof

/-- The parameters a model takes as an argument (R4, R5). -/
structure Params where
  /-- `POLY`, the CRC polynomial. -/
  poly : Byte
  /-- `BREAK_BYTE`, the byte of the break sentinel. -/
  breakByte : Byte
  deriving DecidableEq, Repr

namespace Config

/-- `POLY`, "the only value the protocol uses" (R4). UNVERIFIED, unsafe: the spec calls the literal
unaudited (log 2). -/
def poly : Byte := 0x83

/-- `BREAK_BYTE`, OPEN in R4: one fixed byte of which nothing is known. DESIGN CHOICE, safe (log 1). -/
opaque breakByte : Byte

/-- The parameters of the modelled instance. -/
def params : Params := { poly := poly, breakByte := breakByte }

@[simp] theorem params_poly : params.poly = 0x83 := rfl
@[simp] theorem params_breakByte : params.breakByte = breakByte := rfl

end Config
end Sys2Proof
end

