-- ==== Sys2Proof/Machine/Table.lean ====
section
/-!
DEFINITION. The lookup table and the checksum fold (spec/40_crc_engine.md R100 to R102), as functions
of the polynomial. State.lean uses them for the state after reset.
-/

namespace Sys2Proof.Machine

/-- One of the 8 iterations of R100. "The high bit" is bit 7 of the 8-bit candidate (R101). -/
def crcShift (poly c : Byte) : Byte :=
  if c.getLsbD 7 then (c <<< 1) ^^^ poly else c <<< 1

/-- The entry of candidate `v`: 8 iterations from `v` (R100). -/
def tableEntry (poly v : Byte) : Byte := Nat.repeat (crcShift poly) 8 v

/-- `build_table(poly)`, all 256 entries (R100). -/
def buildTable (poly : Byte) : Vector Byte 256 :=
  Vector.ofFn fun i : Fin 256 => tableEntry poly (BitVec.ofNat 8 i.val)

/-- `TABLE[i]`: every 8-bit index is valid (R32, R50). -/
def lookup (table : Vector Byte 256) (i : Byte) : Byte :=
  table[i.toNat]'(i.isLt)

/-- `crc8(seq)` of R102: `acc <- TABLE[x ^ acc]` from `acc = 0`, first byte first. -/
def crc8 (table : Vector Byte 256) (seq : List Byte) : Byte :=
  seq.foldl (fun acc x => lookup table (x ^^^ acc)) 0x00

end Sys2Proof.Machine
end

