-- ==== Sys2Proof/Machine/State.lean ====
section
/-!
DEFINITION. The state. `Engine` is the engine's state vector, "exactly the following, nothing else"
(spec/10_state.md R20); `State` puts beside it what stands on the two sides of the command port.
-/

namespace Sys2Proof.Machine

/-- The engine's state, field by field as R20 lists it. -/
structure Engine where
  /-- `ACC`, the CRC accumulator of the byte interface (R21). -/
  acc : Byte
  /-- `FBUF[0..5]`, the frame buffer in wire order (R22); its length is `FRAME_LEN` (R4). -/
  fbuf : Vector Byte 6
  /-- `FCOUNT`, 3 bits with values 0 to 6 (R23). -/
  fcount : BitVec 3
  /-- `FOVF`, a push found the buffer full (R24). -/
  fovf : Bool
  /-- `FSTAT`, the outcome of the last FRM.DECODE (R27). -/
  fstat : BitVec 5
  /-- `RES_INDEX` (R25). -/
  resIndex : Byte
  /-- `RES_ENC`, a `u16` pattern (R25). -/
  resEnc : Half
  /-- `RES_STP`, a `u16` pattern (R25). -/
  resStp : Half
  /-- `RES_CRC_CALC` (R25). -/
  resCrcCalc : Byte
  /-- `RES_CRC_RECV` (R25). -/
  resCrcRecv : Byte
  /-- `TABLE[0..255]` (R32); its length is `TABLE_SIZE` (R4). -/
  table : Vector Byte 256
  deriving DecidableEq, Repr

/-- The status codes of spec/60_exceptions.md R200. -/
inductive Status where
  | ok
  | illegalOpcode
  | reservedField
  | badRegnum
  | formatError
  | bufOverflow
  | checksumMismatch
  | breakSeen
  deriving DecidableEq, Repr

/-- What the host can do to the engine (spec/70_reset_and_hazards.md R242). -/
inductive HostMove where
  /-- Offer a command word, any word, and wait for its response. -/
  | command (w : CmdWord)
  /-- Assert `rst` between commands (R230). -/
  | reset
  /-- Offer `w` and assert `rst` while it is in flight (R231). -/
  | abort (w : CmdWord)
  deriving DecidableEq, Repr

/-- Why a step stops. -/
inductive Fault where
  /-- Raised by `step` when the engine holds a value the rules cannot reach: `FCOUNT > 6`, `FOVF = 1`
  with `FCOUNT < 6`, or an `FSTAT` outside the five of R28. The treatment `fault` of
  spec/93_implementation_defined.md P9. Safe: it stops, and no run from reset meets it (log 9). -/
  | unreachableState
  deriving DecidableEq, Repr

/-- Why an instruction has no meaning. -/
inductive Refusal where
  /-- Raised by an arm of `exec` whose instruction has no meaning yet. Safe: it stops. -/
  | notModelled (mnemonic : String)
  deriving DecidableEq, Repr

structure State where
  /-- The engine's own state (R20). -/
  engine : Engine
  /-- The host's moves not yet made, the next one first (log 3). -/
  input : List HostMove
  /-- The responses produced, oldest first: all that a host sees (R35; log 3). -/
  responses : List RspWord
  deriving DecidableEq, Repr

/-- `reset : Params → State` of R230: every element at its value of R34. -/
def Engine.reset (p : Params) : Engine where
  acc := 0x00
  fbuf := #v[0x00, 0x00, 0x00, 0x00, 0x00, 0x00]
  fcount := 0
  fovf := false
  fstat := 0b00000
  resIndex := 0x00
  resEnc := 0x0000
  resStp := 0x0000
  resCrcCalc := 0x00
  resCrcRecv := 0x00
  table := buildTable p.poly

/-- The machine right after reset: the engine as R34 says, no move of the host waiting and no response
produced (log 3, log 4). -/
def State.reset : State where
  engine := Engine.reset Config.params
  input := []
  responses := []

end Sys2Proof.Machine
end

