-- ==== Sys2Proof/Machine/Flags.lean ====
section
/-!
DEFINITION. The flag computations: the `FSTAT` values (spec/10_state.md R27, R28), the `FCNT` view
(R31), and the values of both that the rules can reach.
-/

namespace Sys2Proof.Machine

/-! ### FSTAT (R27): bit 0 DONE, bit 1 FRAME, bit 2 CRC_OK, bit 3 SENTINEL, bit 4 LEN_ERR -/

/-- The five bits put together, bit 4 first. -/
def fstatOf (lenErr sentinel crcOk frame done : Bool) : BitVec 5 :=
  BitVec.ofBool lenErr ++ BitVec.ofBool sentinel ++ BitVec.ofBool crcOk ++ BitVec.ofBool frame ++
    BitVec.ofBool done

/-- Reset or FRM.CLEAR. -/
def fstatNone : BitVec 5 := fstatOf false false false false false
/-- Extracted, the checksum did not validate. -/
def fstatMismatch : BitVec 5 := fstatOf false false false true true
/-- Extracted and validated. -/
def fstatValid : BitVec 5 := fstatOf false false true true true
/-- The break sentinel. -/
def fstatSentinel : BitVec 5 := fstatOf false true false false true
/-- A length error. -/
def fstatLength : BitVec 5 := fstatOf true false false false true

/-- `FSTAT.DONE`. -/
def fstatDone (f : BitVec 5) : Bool := f.getLsbD 0
/-- `FSTAT.FRAME`. -/
def fstatFrame (f : BitVec 5) : Bool := f.getLsbD 1
/-- `FSTAT.CRC_OK`. -/
def fstatCrcOk (f : BitVec 5) : Bool := f.getLsbD 2
/-- `FSTAT.SENTINEL`. -/
def fstatSentinelBit (f : BitVec 5) : Bool := f.getLsbD 3
/-- `FSTAT.LEN_ERR`. -/
def fstatLenErr (f : BitVec 5) : Bool := f.getLsbD 4

/-- The five values of R28. -/
def fstatLegal (f : BitVec 5) : Bool :=
  f == fstatNone || f == fstatMismatch || f == fstatValid || f == fstatSentinel || f == fstatLength

/-- The `FSTAT` view, bits 7 to 5 zero (R30). -/
def fstatView (f : BitVec 5) : Byte := 0#3 ++ f

/-! ### FCNT (R31) -/

/-- The `FCNT` view `FOVF : 0b0000 : FCOUNT`. -/
def fcntView (fovf : Bool) (fcount : BitVec 3) : Byte := BitVec.ofBool fovf ++ 0#4 ++ fcount

/-- `FCOUNT ≤ 6`, and `FOVF = 1` only with `FCOUNT = 6` (R23, R31). -/
def fcntLegal (fovf : Bool) (fcount : BitVec 3) : Bool :=
  decide (fcount.toNat ≤ 6) && (!fovf || fcount == 6)

/-- The engine holds no value that P9 lists as unreachable. -/
def Engine.legal (e : Engine) : Bool := fcntLegal e.fovf e.fcount && fstatLegal e.fstat

end Sys2Proof.Machine
end

