-- ==== Sys2Proof/Machine/Operands.lean ====
section
/-!
DEFINITION. The operand forms: 16-bit values and their bytes (spec/00_scope.md R8,
spec/30_encoding.md R71), the frame and its fields (spec/41_frame_codec.md R130 to R134), and the
register view that RD.REG's operand selects from (spec/10_state.md R30).
-/

namespace Sys2Proof.Machine

/-! ### Sixteen-bit values -/

/-- The high byte, `v[15:8]`. -/
def hiByte (v : Half) : Byte := v.extractLsb' 8 8
/-- The low byte, `v[7:0]`. -/
def loByte (v : Half) : Byte := v.extractLsb' 0 8
/-- `hi : lo`, most significant byte first (R52). -/
def beHalf (hi lo : Byte) : Half := hi ++ lo
/-- `zext_16` of a byte (R8, R73). -/
def zext16 (b : Byte) : Half := b.setWidth 16

/-- `s16(u)`: the two's-complement integer of a pattern (R8; PRESUMED, log 14). -/
def s16 (u : Half) : Int := if u.getLsbD 15 then (u.toNat : Int) - 65536 else (u.toNat : Int)
/-- `u16(i)`: the pattern `i mod 65536` (R8). -/
def u16 (i : Int) : Half := BitVec.ofInt 16 i

/-! ### The frame (R130) -/

/-- The payload of a frame: the five bytes a checksum covers, in wire order (R133, R140). -/
def payloadOf (idx : Byte) (enc stp : Half) : List Byte :=
  [idx, hiByte enc, loByte enc, hiByte stp, loByte stp]

/-- Bytes 0 to 4 of a frame (R133). -/
def framePayload (f : Vector Byte 6) : List Byte := [f[0], f[1], f[2], f[3], f[4]]
/-- `index`, byte 0, all 8 bits of it (R131, R132). -/
def frameIndex (f : Vector Byte 6) : Byte := f[0]
/-- `encoder`, bytes 1 and 2, big-endian (R131). -/
def frameEncoder (f : Vector Byte 6) : Half := beHalf f[1] f[2]
/-- `stepper`, bytes 3 and 4, big-endian (R131). -/
def frameStepper (f : Vector Byte 6) : Half := beHalf f[3] f[4]
/-- `crc_recv`, byte 5 (R131). -/
def frameCrcRecv (f : Vector Byte 6) : Byte := f[5]

/-- The constructed frame of R140: the payload and its checksum. -/
def frameOf (table : Vector Byte 256) (idx : Byte) (enc stp : Half) : Vector Byte 6 :=
  #v[idx, hiByte enc, loByte enc, hiByte stp, loByte stp, crc8 table (payloadOf idx enc stp)]

/-- `crc_calc` of the checksum validator, on a private accumulator (R133). -/
def frameCrcCalc (table : Vector Byte 256) (f : Vector Byte 6) : Byte :=
  crc8 table (framePayload f)

/-- `valid` of the checksum validator (R133). -/
def frameValid (table : Vector Byte 256) (f : Vector Byte 6) : Bool :=
  frameCrcCalc table f == frameCrcRecv f

/-- `is_break` of the sentinel detector: all six bytes equal `BREAK_BYTE` (R134). -/
def isBreak (p : Params) (f : Vector Byte 6) : Bool := f.toList.all (fun b => b == p.breakByte)

/-! ### The register view (R30) -/

/-- `view(r)` as a 16-bit value; none for the reserved numbers `0x10` to `0xFF`. -/
def regView (p : Params) (e : Engine) (r : Byte) : Option Half :=
  match r.toNat with
  | 0x00 => some (zext16 e.acc)
  | 0x01 => some (zext16 (fcntView e.fovf e.fcount))
  | 0x02 => some (zext16 (fstatView e.fstat))
  | 0x03 => some (zext16 e.resIndex)
  | 0x04 => some e.resEnc
  | 0x05 => some e.resStp
  | 0x06 => some (zext16 e.resCrcCalc)
  | 0x07 => some (zext16 e.resCrcRecv)
  | 0x08 => some (zext16 e.fbuf[0])
  | 0x09 => some (zext16 e.fbuf[1])
  | 0x0A => some (zext16 e.fbuf[2])
  | 0x0B => some (zext16 e.fbuf[3])
  | 0x0C => some (zext16 e.fbuf[4])
  | 0x0D => some (zext16 e.fbuf[5])
  | 0x0E => some (zext16 p.poly)
  | 0x0F => some (zext16 p.breakByte)
  | _ => none

end Sys2Proof.Machine
end

