-- ==== Sys2Proof/Machine/Ops.lean ====
section
/-!
DEFINITION. The shared operations: the response word and the two ways a command ends
(spec/00_scope.md R9, spec/60_exceptions.md R200, R201), the updates of the frame buffer, and the
host's reset (spec/70_reset_and_hazards.md R230).

The engine has no trap, so there is no exception entry and no return from one (R206, R207). Its one
way of reporting an error is `raise`.
-/

namespace Sys2Proof.Machine

/-! ### Responses -/

/-- The code of a status (R200). -/
def Status.code : Status → Byte
  | .ok => 0x00
  | .illegalOpcode => 0x01
  | .reservedField => 0x02
  | .badRegnum => 0x03
  | .formatError => 0x04
  | .bufOverflow => 0x05
  | .checksumMismatch => 0x06
  | .breakSeen => 0x07

/-- A command error, as against a success or an outcome (R200, R201). -/
def Status.isCommandError : Status → Bool
  | .ok => false
  | .illegalOpcode => true
  | .reservedField => true
  | .badRegnum => true
  | .formatError => false
  | .bufOverflow => false
  | .checksumMismatch => false
  | .breakSeen => false

/-- The response word `ST : OPE : DATA` (R73). -/
def rspWord (st : Status) (op : Byte) (data : Half) : RspWord := st.code ++ op ++ data

/-- `ST` of a response, bits 31:24. -/
def rspSt (r : RspWord) : Byte := r.extractLsb' 24 8
/-- `OPE` of a response, bits 23:16. -/
def rspOpe (r : RspWord) : Byte := r.extractLsb' 16 8
/-- `DATA` of a response, bits 15:0. -/
def rspData (r : RspWord) : Half := r.extractLsb' 0 16

/-- `respond(S, d)` for the command with opcode `op`, after its writes have given `e` (R9). -/
def respond (op : Byte) (st : Status) (data : Half) (e : Engine) : Engine × RspWord :=
  (e, rspWord st op data)

/-- `raise E`: the state before the command, and data zero (R9, R201). -/
def raise (op : Byte) (st : Status) (e : Engine) : Engine × RspWord :=
  (e, rspWord st op 0x0000)

/-- A command completes: all its writes at once, one response after the earlier ones (R57, R60). -/
def State.complete (s : State) (r : Engine × RspWord) : Host.Outcome State Fault Refusal :=
  .next { s with engine := r.1, responses := s.responses ++ [r.2] }

/-! ### The accumulator -/

/-- `ACC <- v`. -/
def Engine.setAcc (e : Engine) (v : Byte) : Engine := { e with acc := v }

/-! ### The frame buffer -/

/-- The buffer holds all 6 bytes. -/
def Engine.bufferFull (e : Engine) : Bool := !decide (e.fcount.toNat < 6)

/-- The writes of FRM.PUSH (R136): append below 6, else drop the byte and record the overflow. -/
def Engine.pushByte (e : Engine) (b : Byte) : Engine :=
  if h : e.fcount.toNat < 6 then
    { e with fbuf := e.fbuf.set e.fcount.toNat b h, fcount := e.fcount + 1 }
  else { e with fovf := true }

/-- All six bytes written: `FCOUNT <- 6`, `FOVF <- 0` (R137, R140). -/
def Engine.fillBuffer (e : Engine) (f : Vector Byte 6) : Engine :=
  { e with fbuf := f, fcount := 6, fovf := false }

/-- The buffer consumed or discarded: `FCOUNT <- 0`, `FOVF <- 0`, bytes kept (R138, R139). -/
def Engine.emptyBuffer (e : Engine) : Engine := { e with fcount := 0, fovf := false }

/-- `FSTAT <- f`, all five bits at once (R27). -/
def Engine.setFstat (e : Engine) (f : BitVec 5) : Engine := { e with fstat := f }

/-- The five result registers from the bytes in the buffer (R25, R131, R133, R138). -/
def Engine.extractFrame (e : Engine) : Engine :=
  { e with
    resIndex := frameIndex e.fbuf
    resEnc := frameEncoder e.fbuf
    resStp := frameStepper e.fbuf
    resCrcCalc := frameCrcCalc e.table e.fbuf
    resCrcRecv := frameCrcRecv e.fbuf }

/-- The `FCNT` view as response data. -/
def Engine.fcntData (e : Engine) : Half := zext16 (fcntView e.fovf e.fcount)

/-- `FSTAT` as response data. -/
def Engine.fstatData (e : Engine) : Half := zext16 (fstatView e.fstat)

/-! ### Reset by the host -/

/-- `rst`: the engine as R230 says, no response; responses already given stay (R231). The effect is the
same whatever a command in flight had done. -/
def State.hostReset (s : State) : State := { s with engine := Engine.reset Config.params }

end Sys2Proof.Machine
end

