-- ==== Sys2Proof/Machine/Control.lean ====
section
/-!
DEFINITION. The control commands: NOP, RD.REG (spec/42_control.md R170, R171).
-/

namespace Sys2Proof.Machine

/-- R170. -/
def nop (e : Engine) : Engine × RspWord := respond 0x00 .ok 0x0000 e

/-- R171: a reserved register number raises BAD_REGNUM. -/
def rdReg (p : Params) (r : Byte) (e : Engine) : Engine × RspWord :=
  match regView p e r with
  | none => raise 0x09 .badRegnum e
  | some data => respond 0x09 .ok data e

/-- NOP. -/
def execNop (s : State) : Host.Outcome State Fault Refusal := s.complete (nop s.engine)

/-- RD.REG `r`. -/
def execRdReg (r : Byte) (s : State) : Host.Outcome State Fault Refusal :=
  s.complete (rdReg Config.params r s.engine)

end Sys2Proof.Machine
end

