-- ==== Sys2Proof/Machine/Crc.lean ====
section
/-!
DEFINITION. The commands of the CRC-8 engine: CRC.INIT, CRC.STEP, TBL.READ
(spec/40_crc_engine.md R106 to R108).
-/

namespace Sys2Proof.Machine

/-- R106. -/
def crcInit (e : Engine) : Engine × RspWord := respond 0x01 .ok 0x0000 (e.setAcc 0x00)

/-- R107: the new `ACC` is the data. -/
def crcStep (b : Byte) (e : Engine) : Engine × RspWord :=
  let acc := lookup e.table (b ^^^ e.acc)
  respond 0x02 .ok (zext16 acc) (e.setAcc acc)

/-- R108. -/
def tblRead (i : Byte) (e : Engine) : Engine × RspWord :=
  respond 0x03 .ok (zext16 (lookup e.table i)) e

/-- CRC.INIT. -/
def execCrcInit (s : State) : Host.Outcome State Fault Refusal := s.complete (crcInit s.engine)

/-- CRC.STEP `b`. -/
def execCrcStep (b : Byte) (s : State) : Host.Outcome State Fault Refusal :=
  s.complete (crcStep b s.engine)

/-- TBL.READ `i`. -/
def execTblRead (i : Byte) (s : State) : Host.Outcome State Fault Refusal :=
  s.complete (tblRead i s.engine)

end Sys2Proof.Machine
end

