-- ==== Sys2Proof/Machine/Frame.lean ====
section
/-!
DEFINITION. The commands of the frame codec: FRM.PUSH, FRM.LOAD, FRM.DECODE, FRM.CLEAR, FRM.ENCODE
(spec/41_frame_codec.md R136 to R140). None of them reads or writes `ACC` (R133).
-/

namespace Sys2Proof.Machine

/-- R136: the data is the `FCNT` view after the write. -/
def frmPush (b : Byte) (e : Engine) : Engine × RspWord :=
  let e' := e.pushByte b
  respond 0x04 (if e.bufferFull then .bufOverflow else .ok) e'.fcntData e'

/-- R137. -/
def frmLoad (f0 f1 f2 f3 f4 f5 : Byte) (e : Engine) : Engine × RspWord :=
  respond 0x05 .ok 0x0006 (e.fillBuffer #v[f0, f1, f2, f3, f4, f5])

/-- The buffer does not hold exactly 6 bytes (R135, R138). -/
def Engine.wrongLength (e : Engine) : Bool := e.fcount != 6 || e.fovf

/-- R138, the tests in the order of R135: length, sentinel, checksum. Every path consumes the buffer
and answers with the new `FSTAT`. -/
def frmDecode (p : Params) (e : Engine) : Engine × RspWord :=
  if e.wrongLength then
    let e' := e.emptyBuffer.setFstat fstatLength
    respond 0x06 .formatError e'.fstatData e'
  else if isBreak p e.fbuf then
    let e' := e.emptyBuffer.setFstat fstatSentinel
    respond 0x06 .breakSeen e'.fstatData e'
  else if frameValid e.table e.fbuf then
    let e' := e.extractFrame.emptyBuffer.setFstat fstatValid
    respond 0x06 .ok e'.fstatData e'
  else
    let e' := e.extractFrame.emptyBuffer.setFstat fstatMismatch
    respond 0x06 .checksumMismatch e'.fstatData e'

/-- R139. -/
def frmClear (e : Engine) : Engine × RspWord :=
  respond 0x07 .ok 0x0000 (e.emptyBuffer.setFstat fstatNone)

/-- R140: the data is the computed checksum. -/
def frmEncode (idx : Byte) (enc stp : Half) (e : Engine) : Engine × RspWord :=
  respond 0x08 .ok (zext16 (crc8 e.table (payloadOf idx enc stp)))
    (e.fillBuffer (frameOf e.table idx enc stp))

/-- FRM.PUSH `b`. -/
def execFrmPush (b : Byte) (s : State) : Host.Outcome State Fault Refusal :=
  s.complete (frmPush b s.engine)

/-- FRM.LOAD `f0, …, f5`. -/
def execFrmLoad (f0 f1 f2 f3 f4 f5 : Byte) (s : State) : Host.Outcome State Fault Refusal :=
  s.complete (frmLoad f0 f1 f2 f3 f4 f5 s.engine)

/-- FRM.DECODE. -/
def execFrmDecode (s : State) : Host.Outcome State Fault Refusal :=
  s.complete (frmDecode Config.params s.engine)

/-- FRM.CLEAR. -/
def execFrmClear (s : State) : Host.Outcome State Fault Refusal := s.complete (frmClear s.engine)

/-- FRM.ENCODE `idx, enc, stp`. -/
def execFrmEncode (idx : Byte) (enc stp : Half) (s : State) : Host.Outcome State Fault Refusal :=
  s.complete (frmEncode idx enc stp s.engine)

end Sys2Proof.Machine
end

