-- ==== Sys2Proof/Machine/Dispatch.lean ====
section
/-!
DEFINITION. The meaning of every command, one arm per constructor of `Instr`.
-/

namespace Sys2Proof.Machine

def exec (i : Instr) (s : State) : Host.Outcome State Fault Refusal :=
  match i with
  | .nop => Sys2Proof.Machine.execNop s
  | .crcInit => Sys2Proof.Machine.execCrcInit s
  | .crcStep b => Sys2Proof.Machine.execCrcStep b s
  | .tblRead k => Sys2Proof.Machine.execTblRead k s
  | .frmPush b => Sys2Proof.Machine.execFrmPush b s
  | .frmLoad f0 f1 f2 f3 f4 f5 => Sys2Proof.Machine.execFrmLoad f0 f1 f2 f3 f4 f5 s
  | .frmDecode => Sys2Proof.Machine.execFrmDecode s
  | .frmClear => Sys2Proof.Machine.execFrmClear s
  | .frmEncode idx enc stp => Sys2Proof.Machine.execFrmEncode idx enc stp s
  | .rdReg r => Sys2Proof.Machine.execRdReg r s

end Sys2Proof.Machine
end

