-- ==== Sys2Proof/Machine/Command.lean ====
section
/-!
DEFINITION. From a command word to its effect: the spec's own step relation (spec/00_scope.md R5), the
two errors of the decoder (spec/30_encoding.md R76, R77; before any other, spec/60_exceptions.md
R203), and the same for the machine's state.
-/

namespace Sys2Proof.Machine

/-- The effect of a command on the engine, and its response. -/
def command (p : Params) (i : Instr) (e : Engine) : Engine × RspWord :=
  match i with
  | .nop => nop e
  | .crcInit => crcInit e
  | .crcStep b => crcStep b e
  | .tblRead k => tblRead k e
  | .frmPush b => frmPush b e
  | .frmLoad f0 f1 f2 f3 f4 f5 => frmLoad f0 f1 f2 f3 f4 f5 e
  | .frmDecode => frmDecode p e
  | .frmClear => frmClear e
  | .frmEncode idx enc stp => frmEncode idx enc stp e
  | .rdReg r => rdReg p r e

/-- `step : Params → State → CmdWord → State × RspWord` of R5. -/
def cmdStep (p : Params) (e : Engine) (w : CmdWord) : Engine × RspWord :=
  match decode w with
  | .instr i => command p i e
  | .illegalOpcode => raise (opField w) .illegalOpcode e
  | .reservedField => raise (opField w) .reservedField e

/-- Commands in order, each response in order (R60, R243). -/
def cmdRun (p : Params) (e : Engine) : List CmdWord → Engine × List RspWord
  | [] => (e, [])
  | w :: ws =>
    let first := cmdStep p e w
    let rest := cmdRun p first.1 ws
    (rest.1, first.2 :: rest.2)

/-- The machine runs one accepted command word. -/
def acceptCommand (w : CmdWord) (s : State) : Host.Outcome State Fault Refusal :=
  match decode w with
  | .instr i => exec i s
  | .illegalOpcode => s.complete (raise (opField w) .illegalOpcode s.engine)
  | .reservedField => s.complete (raise (opField w) .reservedField s.engine)

/-- The machine meets the host's next move: a command runs; `rst` resets; `rst` with a command in
flight aborts it, with no response, and resets (R230, R231). -/
def acceptMove (m : HostMove) (s : State) : Host.Outcome State Fault Refusal :=
  match m with
  | .command w => acceptCommand w s
  | .reset => .next s.hostReset
  | .abort _ => .next s.hostReset

end Sys2Proof.Machine
end

