-- ==== Sys2Proof/Machine/Step.lean ====
section
/-!
DEFINITION. One step of the machine: the next move of the host. The engine fetches nothing
(spec/10_state.md R26); its next command is the one the host offers at `cmd_word`.
-/

namespace Sys2Proof.Machine

/-- With no move of the host the engine holds its state (spec/60_exceptions.md R214; log 5). A state
the rules cannot reach is a fault that later steps never clear
(spec/93_implementation_defined.md P9; log 9). -/
def step (s : State) : Host.Outcome State Fault Refusal :=
  if s.engine.legal then
    match s.input with
    | [] => .next s
    | m :: rest => acceptMove m { s with input := rest }
  else .fault .unreachableState

/-- `s` with the command word `w` as the host's next move (log 4). -/
def State.withFetchWord (s : State) (nbits w : Nat) : State :=
  { s with input := .command (tableWord nbits w) :: s.input }

end Sys2Proof.Machine
end

