-- ==== Sys2Proof/Machine/Pseudo.lean ====
section
/-!
DEFINITION. The pseudo-instructions and the meaning of a written command (spec/30_encoding.md R79,
R80), as functions to the engine's commands. A pseudo-instruction is not atomic: each command of its
expansion is a step of its own.
-/

namespace Sys2Proof.Machine

/-! ### Pseudo-instructions (R80) -/

/-- CRC.SEQ `b1, …, bn`. -/
def crcSeq (bs : List Byte) : List Instr := .crcInit :: bs.map .crcStep

/-- FRM.RECV `f0, …, f5`. -/
def frmRecv (f0 f1 f2 f3 f4 f5 : Byte) : List Instr := [f0, f1, f2, f3, f4, f5].map .frmPush

/-- FRM.PARSE `f0, …, f5`. -/
def frmParse (f0 f1 f2 f3 f4 f5 : Byte) : List Instr := [.frmLoad f0 f1 f2 f3 f4 f5, .frmDecode]

/-- RD.ACC. -/
def rdAcc : List Instr := [.rdReg 0x00]

/-- RD.RESULT: FSTAT and the five result registers. -/
def rdResult : List Instr :=
  [.rdReg 0x02, .rdReg 0x03, .rdReg 0x04, .rdReg 0x05, .rdReg 0x06, .rdReg 0x07]

/-! ### Written commands (R79) -/

/-- An 8-bit operand as a byte. -/
def asmByte (v : Int) : Byte := BitVec.ofInt 8 v

/-- A 16-bit operand: `u16(v)` where it is written signed, `v` where it is written unsigned, which is
one pattern, `v mod 65536`. -/
def asmHalf (v : Int) : Half := BitVec.ofInt 16 v

/-- The command a written command stands for. -/
def asmInstr : AsmCmd → Instr
  | .nop => .nop
  | .crcInit => .crcInit
  | .crcStep b => .crcStep (asmByte b)
  | .tblRead i => .tblRead (asmByte i)
  | .frmPush b => .frmPush (asmByte b)
  | .frmLoad f0 f1 f2 f3 f4 f5 =>
    .frmLoad (asmByte f0) (asmByte f1) (asmByte f2) (asmByte f3) (asmByte f4) (asmByte f5)
  | .frmDecode => .frmDecode
  | .frmClear => .frmClear
  | .frmEncode idx enc stp => .frmEncode (asmByte idx) (asmHalf enc) (asmHalf stp)
  | .rdReg r => .rdReg (asmByte r)

/-- The word of a written command; "the assembler refuses anything else" (R79). -/
def assembleCmd (c : AsmCmd) : Option CmdWord :=
  if c.wellFormed then some (encode (asmInstr c)) else none

/-- The words of written commands, refused when one is. -/
def assembleCmds : List AsmCmd → Option (List CmdWord)
  | [] => some []
  | c :: cs =>
    match assembleCmd c, assembleCmds cs with
    | some w, some ws => some (w :: ws)
    | _, _ => none

end Sys2Proof.Machine
end

