-- ==== Sys2Proof/Machine/Assembler.lean ====
section
/-!
DEFINITION. The assembler's text (spec/30_encoding.md R79, R80): one line of characters to the command
words it stands for. What R79 leaves open (spaces, letter case, an empty line, a sign before a
hexadecimal number) is fixed in log 11.
-/

namespace Sys2Proof.Machine

/-! ### Characters and numbers -/

/-- A space or a tab. -/
def isBlank (c : Char) : Bool := c == ' ' || c == '\t'

/-- A text without the blanks at its two ends. -/
def trimBlanks (l : List Char) : List Char :=
  ((l.dropWhile isBlank).reverse.dropWhile isBlank).reverse

/-- "A comment runs from `;` to the end of the line" (R79). -/
def stripComment (l : List Char) : List Char := l.takeWhile (fun c => c != ';')

/-- The parts between commas, at least one. -/
def splitCommas : List Char → List (List Char)
  | [] => [[]]
  | c :: cs =>
    if c == ',' then [] :: splitCommas cs
    else
      match splitCommas cs with
      | [] => [[c]]
      | part :: parts => (c :: part) :: parts

/-- A decimal digit. -/
def decDigit (c : Char) : Option Nat :=
  if decide (48 ≤ c.toNat) && decide (c.toNat ≤ 57) then some (c.toNat - 48) else none

/-- A hexadecimal digit, in either case. -/
def hexDigit (c : Char) : Option Nat :=
  if decide (65 ≤ c.toNat) && decide (c.toNat ≤ 70) then some (c.toNat - 55)
  else if decide (97 ≤ c.toNat) && decide (c.toNat ≤ 102) then some (c.toNat - 87)
  else decDigit c

/-- Digits read on from a value. -/
def readDigits (base : Nat) (digit : Char → Option Nat) : Nat → List Char → Option Nat
  | acc, [] => some acc
  | acc, c :: cs =>
    match digit c with
    | some d => readDigits base digit (acc * base + d) cs
    | none => none

/-- A number with at least one digit. -/
def readNat (base : Nat) (digit : Char → Option Nat) : List Char → Option Int
  | [] => none
  | c :: cs => (readDigits base digit 0 (c :: cs)).map Int.ofNat

/-- "Numbers are decimal (`10`, `-10`) or hexadecimal (`0x0A`)" (R79). -/
def readNumber : List Char → Option Int
  | '0' :: 'x' :: cs => readNat 16 hexDigit cs
  | '-' :: cs => (readNat 10 decDigit cs).map (fun v => -v)
  | cs => readNat 10 decDigit cs

/-! ### Names -/

/-- The register names of R30 and their numbers. -/
def registerNames : List (List Char × Int) :=
  [ (['A', 'C', 'C'], 0x00), (['F', 'C', 'N', 'T'], 0x01), (['F', 'S', 'T', 'A', 'T'], 0x02),
    (['R', 'E', 'S', '_', 'I', 'N', 'D', 'E', 'X'], 0x03), (['R', 'E', 'S', '_', 'E', 'N', 'C'], 0x04),
    (['R', 'E', 'S', '_', 'S', 'T', 'P'], 0x05),
    (['R', 'E', 'S', '_', 'C', 'R', 'C', '_', 'C', 'A', 'L', 'C'], 0x06),
    (['R', 'E', 'S', '_', 'C', 'R', 'C', '_', 'R', 'E', 'C', 'V'], 0x07),
    (['F', 'B', 'U', 'F', '0'], 0x08), (['F', 'B', 'U', 'F', '1'], 0x09),
    (['F', 'B', 'U', 'F', '2'], 0x0A), (['F', 'B', 'U', 'F', '3'], 0x0B),
    (['F', 'B', 'U', 'F', '4'], 0x0C), (['F', 'B', 'U', 'F', '5'], 0x0D),
    (['P', 'O', 'L', 'Y'], 0x0E), (['B', 'R', 'E', 'A', 'K'], 0x0F) ]

/-- RD.REG's operand: a register name or a number. -/
def readRegister (l : List Char) : Option Int :=
  match registerNames.find? (fun entry => entry.1 == l) with
  | some entry => some entry.2
  | none => readNumber l

/-- What a line's first word names: the ten mnemonics of R74 and the five pseudo-instructions of R80. -/
inductive AsmWord where
  | nop | crcInit | crcStep | tblRead | frmPush | frmLoad | frmDecode | frmClear | frmEncode | rdReg
  | crcSeq | frmRecv | frmParse | rdAcc | rdResult
  deriving DecidableEq, Repr

/-- The spelling of each. -/
def asmWords : List (List Char × AsmWord) :=
  [ (['N', 'O', 'P'], .nop), (['C', 'R', 'C', '.', 'I', 'N', 'I', 'T'], .crcInit),
    (['C', 'R', 'C', '.', 'S', 'T', 'E', 'P'], .crcStep),
    (['T', 'B', 'L', '.', 'R', 'E', 'A', 'D'], .tblRead),
    (['F', 'R', 'M', '.', 'P', 'U', 'S', 'H'], .frmPush),
    (['F', 'R', 'M', '.', 'L', 'O', 'A', 'D'], .frmLoad),
    (['F', 'R', 'M', '.', 'D', 'E', 'C', 'O', 'D', 'E'], .frmDecode),
    (['F', 'R', 'M', '.', 'C', 'L', 'E', 'A', 'R'], .frmClear),
    (['F', 'R', 'M', '.', 'E', 'N', 'C', 'O', 'D', 'E'], .frmEncode),
    (['R', 'D', '.', 'R', 'E', 'G'], .rdReg), (['C', 'R', 'C', '.', 'S', 'E', 'Q'], .crcSeq),
    (['F', 'R', 'M', '.', 'R', 'E', 'C', 'V'], .frmRecv),
    (['F', 'R', 'M', '.', 'P', 'A', 'R', 'S', 'E'], .frmParse),
    (['R', 'D', '.', 'A', 'C', 'C'], .rdAcc),
    (['R', 'D', '.', 'R', 'E', 'S', 'U', 'L', 'T'], .rdResult) ]

/-! ### Lines -/

/-- Every operand read, or none. -/
def readOperands (read : List Char → Option Int) : List (List Char) → Option (List Int)
  | [] => some []
  | l :: ls =>
    match read l, readOperands read ls with
    | some v, some vs => some (v :: vs)
    | _, _ => none

/-- The written commands of a first word and its numbers; none for a wrong number of operands. -/
def asmExpand : AsmWord → List Int → Option (List AsmCmd)
  | .nop, [] => some [.nop]
  | .crcInit, [] => some [.crcInit]
  | .crcStep, [b] => some [.crcStep b]
  | .tblRead, [i] => some [.tblRead i]
  | .frmPush, [b] => some [.frmPush b]
  | .frmLoad, [f0, f1, f2, f3, f4, f5] => some [.frmLoad f0 f1 f2 f3 f4 f5]
  | .frmDecode, [] => some [.frmDecode]
  | .frmClear, [] => some [.frmClear]
  | .frmEncode, [idx, enc, stp] => some [.frmEncode idx enc stp]
  | .rdReg, [r] => some [.rdReg r]
  | .crcSeq, bs => some (.crcInit :: bs.map .crcStep)
  | .frmRecv, [f0, f1, f2, f3, f4, f5] => some ([f0, f1, f2, f3, f4, f5].map .frmPush)
  | .frmParse, [f0, f1, f2, f3, f4, f5] => some [.frmLoad f0 f1 f2 f3 f4 f5, .frmDecode]
  | .rdAcc, [] => some [.rdReg 0x00]
  | .rdResult, [] =>
    some [.rdReg 0x02, .rdReg 0x03, .rdReg 0x04, .rdReg 0x05, .rdReg 0x06, .rdReg 0x07]
  | _, _ => none

/-- The reader of a first word's operands. -/
def asmReader : AsmWord → List Char → Option Int
  | .rdReg => readRegister
  | _ => readNumber

/-- A line without its comment: the first word, and the operands between commas. -/
def parseCommand (l : List Char) : Option (List AsmCmd) :=
  let line := trimBlanks l
  let word := line.takeWhile (fun c => !isBlank c)
  let rest := trimBlanks (line.dropWhile (fun c => !isBlank c))
  let parts := if rest.isEmpty then [] else (splitCommas rest).map trimBlanks
  match asmWords.find? (fun entry => entry.1 == word) with
  | none => none
  | some entry =>
    match readOperands (asmReader entry.2) parts with
    | none => none
    | some ops => asmExpand entry.2 ops

/-- The words of one line: none of them for a blank line or a comment, `none` where the assembler
refuses the line (R79). -/
def assembleLine (l : List Char) : Option (List CmdWord) :=
  let line := trimBlanks (stripComment l)
  if line.isEmpty then some []
  else
    match parseCommand line with
    | some cmds => assembleCmds cmds
    | none => none

/-- The words of a program, one line after the other. -/
def assemble : List (List Char) → Option (List CmdWord)
  | [] => some []
  | l :: ls =>
    match assembleLine l, assemble ls with
    | some ws, some rest => some (ws ++ rest)
    | _, _ => none

end Sys2Proof.Machine
end

