-- ==== Sys2Proof/Machine/SourceView.lean ====
section
/-!
DEFINITION. The engine's results in the terms of the source's data types and errors
(spec/41_frame_codec.md R144, spec/60_exceptions.md R208). Nothing here changes the state: it is how a
host reads the registers.
-/

namespace Sys2Proof.Machine

/-- The fields of the source's RawSample and ErrorAnnotation that the engine supplies (R144). -/
structure SampleView where
  index : Byte
  encoderDelta : Int
  stepperDelta : Int
  goodCrc : Bool
  expectedCrc : Byte
  rawBytes : List Byte
  deriving DecidableEq, Repr

/-- The registers as a host reads them after an FRM.DECODE on the extraction path; none when
`FSTAT.FRAME` says that the registers are not from the last decode (R234). -/
def sampleView (e : Engine) : Option SampleView :=
  if fstatFrame e.fstat then
    some
      { index := e.resIndex
        encoderDelta := s16 e.resEnc
        stepperDelta := s16 e.resStp
        goodCrc := fstatCrcOk e.fstat
        expectedCrc := e.resCrcCalc
        rawBytes := e.fbuf.toList }
  else none

/-- The source's error taxonomy. -/
inductive SourceError where
  | checksumMismatch
  | indexMismatch
  | malformedFrame
  | transportFailure
  | configError
  deriving DecidableEq, Repr

/-- The source's error that a status reports (R144); the break sentinel is no error, and the command
errors and BUF_OVERFLOW are the engine's own. -/
def Status.sourceError : Status → Option SourceError
  | .ok => none
  | .illegalOpcode => none
  | .reservedField => none
  | .badRegnum => none
  | .formatError => some .malformedFrame
  | .bufOverflow => none
  | .checksumMismatch => some .checksumMismatch
  | .breakSeen => none

end Sys2Proof.Machine
end

