-- ==== Sys2Proof/Safety.lean ====
section
/-!
DEFINITION. The terms the claims use: the invariant of the engine, what a safe run is, what a host
offers, and the transmission errors of spec/41_frame_codec.md R143.
-/

namespace Sys2Proof.Machine

/-- What holds of the engine from reset on, whatever the host sends. -/
structure Engine.Inv (e : Engine) : Prop where
  /-- `FCOUNT`, `FOVF` and `FSTAT` hold values the rules reach (R23, R28, R31; P9). -/
  legal : e.legal = true
  /-- "It holds `build_table(POLY)` … until the next reset" (R32). -/
  table : e.table = buildTable Config.poly
  /-- `RES_CRC_CALC` is the checksum of the fields beside it (R25, R133). -/
  crcCalc : e.resCrcCalc = crc8 e.table (payloadOf e.resIndex e.resEnc e.resStp)
  /-- `FSTAT = 0x07`: the frame decoded last validated (R28). -/
  valid : e.fstat = fstatValid → e.resCrcCalc = e.resCrcRecv
  /-- `FSTAT = 0x03`: its checksum did not validate (R28). -/
  mismatch : e.fstat = fstatMismatch → e.resCrcCalc ≠ e.resCrcRecv

/-- A run is safe when no number of steps ends in a fault or a refusal. -/
def SafeRun (s : State) : Prop := ∀ n, ∃ t, Sys2Proof.core.run n s = .next t

/-- `s` with the host about to make these moves. -/
def State.withMoves (s : State) (ms : List HostMove) : State := { s with input := ms }

/-- `s` with the host about to send these command words. -/
def State.withWords (s : State) (ws : List CmdWord) : State := s.withMoves (ws.map .command)

/-- A frame with one bit flipped, the 48 bits numbered "from 0, bit 7 of byte 0, to 47, bit 0 of
byte 5" (R143). -/
def flipBit (f : Vector Byte 6) (i : Nat) : Vector Byte 6 :=
  Vector.ofFn fun k : Fin 6 => if k.val = i / 8 then f[k] ^^^ (0x80#8 >>> (i % 8)) else f[k]

end Sys2Proof.Machine
end

