-- ==== Sys2Proof/Certificates/Slice0/Obligations.lean ====
section
/-!
DEFINITION. The statements for the provers. The helpers under `Sys2Proof.Claims` are written from the
spec's own words, beside the model's definitions and not from them.
-/

open Sys2Proof Sys2Proof.Machine

namespace Sys2Proof.Claims

/-- The fields R74 marks "must be zero", by opcode. -/
def mustBeZero (op : Nat) : CmdWord :=
  match op with
  | 0x02 => 0x0000FFFFFFFFFFFF
  | 0x03 => 0x0000FFFFFFFFFFFF
  | 0x04 => 0x0000FFFFFFFFFFFF
  | 0x05 => 0x00000000000000FF
  | 0x08 => 0x000000000000FFFF
  | 0x09 => 0x0000FFFFFFFFFFFF
  | _ => 0x00FFFFFFFFFFFFFF

/-- Offered `w` as its next move, whatever moves follow, the machine takes it, its engine becomes `e`,
and `r` is the one response. -/
def wordRuns (s : State) (w : CmdWord) (e : Engine) (r : RspWord) : Prop :=
  s.engine.legal = true → ∀ rest,
    step (s.withMoves (.command w :: rest)) =
      .next { engine := e, input := rest, responses := s.responses ++ [r] }

/-- Every word with opcode `op` and a bit of `zeros` set answers RESERVED_FIELD and writes nothing. -/
def reservedBitsRefused (s : State) (op : Byte) (zeros : CmdWord) : Prop :=
  ∀ w : CmdWord, w.extractLsb' 56 8 = op → w &&& zeros ≠ 0 →
    wordRuns s w s.engine (0x02#8 ++ op ++ 0x0000#16)

/-- All six bytes of the buffer equal `BREAK_BYTE` (R134). -/
abbrev holdsBreak (e : Engine) : Prop := ∀ k, ∀ h : k < 6, e.fbuf[k] = Config.breakByte

/-- The computed checksum of the buffer's bytes 0 to 4 (R133). -/
def bufferCrc (e : Engine) : Byte :=
  crc8 e.table [e.fbuf[0], e.fbuf[1], e.fbuf[2], e.fbuf[3], e.fbuf[4]]

/-- The engine after the extraction path of R138 has run and left `fstat`. -/
def extracted (e : Engine) (fstat : BitVec 5) : Engine :=
  { e with
    fcount := 0
    fovf := false
    fstat := fstat
    resIndex := e.fbuf[0]
    resEnc := e.fbuf[1] ++ e.fbuf[2]
    resStp := e.fbuf[3] ++ e.fbuf[4]
    resCrcCalc := bufferCrc e
    resCrcRecv := e.fbuf[5] }

/-- The first status of R203's order that applies to the word `w`, for the engine `e`. -/
def statusByPriority (e : Engine) (w : CmdWord) : Byte :=
  let op := (w.extractLsb' 56 8).toNat
  if 0x0A ≤ op then 0x01
  else if w &&& mustBeZero op ≠ 0 then 0x02
  else if op = 0x09 ∧ 0x10 ≤ (w.extractLsb' 48 8).toNat then 0x03
  else if op = 0x06 ∧ (e.fcount ≠ 6 ∨ e.fovf = true) then 0x04
  else if op = 0x04 ∧ ¬ e.fcount.toNat < 6 then 0x05
  else if op = 0x06 ∧ holdsBreak e then 0x07
  else if op = 0x06 ∧ bufferCrc e ≠ e.fbuf[5] then 0x06
  else 0x00

/-- The words of pseudo-instruction and command lists, as the host sends them. -/
def moves (is : List Instr) : List HostMove := is.map fun i => .command (encode i)

/-- The range of an 8-bit operand (R79). -/
abbrev isU8 (v : Int) : Prop := 0 ≤ v ∧ v ≤ 255

/-- The two ranges of a 16-bit operand, signed and unsigned (R79). -/
abbrev isHalf (v : Int) : Prop := (-32768 ≤ v ∧ v ≤ 32767) ∨ (0 ≤ v ∧ v ≤ 65535)

/-- `c` is assembled exactly under `inRange`, to the word `w`, which decodes to `i`. -/
def assembles (c : AsmCmd) (inRange : Prop) (w : CmdWord) (i : Instr) : Prop :=
  (inRange → assembleCmd c = some w ∧ decode w = .instr i) ∧ (¬ inRange → assembleCmd c = none)

end Sys2Proof.Claims

open Sys2Proof.Claims

/-! ### Encoding (30_encoding.md) -/

/-- No bit of an encoding is dropped: decoding the word of a command gives the command, with every
operand at every value. -/
def Obligations.DecodeOfEncodeIsTheCommand : Prop :=
  ∀ i : Instr, decode (encode i) = .instr i

/-- Each command has one word: the word a command is decoded from is its encoding. -/
def Obligations.EncodeOfDecodeIsTheWord : Prop :=
  ∀ (w : CmdWord) (i : Instr), decode w = .instr i → encode i = w

/-- R75, with the match and mask of R74 and the operands of R72 written out. -/
def Obligations.DecoderHasThreeOutcomes : Prop :=
  ∀ w : CmdWord,
    let op := w.extractLsb' 56 8
    let row := fun (pattern mask : CmdWord) (i : Instr) =>
      (w &&& mask = pattern → decode w = .instr i) ∧ (w &&& mask ≠ pattern → decode w = .reservedField)
    (0x0A ≤ op.toNat → decode w = .illegalOpcode) ∧
    (op = 0x00 → row 0x0000000000000000 0xFFFFFFFFFFFFFFFF .nop) ∧
    (op = 0x01 → row 0x0100000000000000 0xFFFFFFFFFFFFFFFF .crcInit) ∧
    (op = 0x02 → row 0x0200000000000000 0xFF00FFFFFFFFFFFF (.crcStep (w.extractLsb' 48 8))) ∧
    (op = 0x03 → row 0x0300000000000000 0xFF00FFFFFFFFFFFF (.tblRead (w.extractLsb' 48 8))) ∧
    (op = 0x04 → row 0x0400000000000000 0xFF00FFFFFFFFFFFF (.frmPush (w.extractLsb' 48 8))) ∧
    (op = 0x05 → row 0x0500000000000000 0xFF000000000000FF
      (.frmLoad (w.extractLsb' 48 8) (w.extractLsb' 40 8) (w.extractLsb' 32 8) (w.extractLsb' 24 8)
        (w.extractLsb' 16 8) (w.extractLsb' 8 8))) ∧
    (op = 0x06 → row 0x0600000000000000 0xFFFFFFFFFFFFFFFF .frmDecode) ∧
    (op = 0x07 → row 0x0700000000000000 0xFFFFFFFFFFFFFFFF .frmClear) ∧
    (op = 0x08 → row 0x0800000000000000 0xFF0000000000FFFF
      (.frmEncode (w.extractLsb' 48 8) (w.extractLsb' 32 16) (w.extractLsb' 16 16))) ∧
    (op = 0x09 → row 0x0900000000000000 0xFF00FFFFFFFFFFFF (.rdReg (w.extractLsb' 48 8)))

/-- R76. -/
def Obligations.IllegalOpcodeIsAnsweredAndWritesNothing : Prop :=
  ∀ (s : State) (w : CmdWord), 0x0A ≤ (w.extractLsb' 56 8).toNat →
    wordRuns s w s.engine (0x01#8 ++ w.extractLsb' 56 8 ++ 0x0000#16)

/-- R77, with its example. -/
def Obligations.ReservedFieldIsAnsweredAndWritesNothing : Prop :=
  ∀ s : State,
    (∀ op : Byte, op.toNat < 0x0A → reservedBitsRefused s op (mustBeZero op.toNat)) ∧
    wordRuns s 0x0210010000000000 s.engine 0x02020000

/-- Words written out from the encodings of R74 and spec/95_test_vectors.md decode to the commands they
stand for. A sanity statement. -/
def Obligations.WordsOfTheSpecDecode : Prop :=
  decode 0x0205000000000000 = .instr (.crcStep 0x05) ∧
  decode 0x0500000A000A4400 = .instr (.frmLoad 0x00 0x00 0x0A 0x00 0x0A 0x44) ∧
  decode 0x0805000AFFF60000 = .instr (.frmEncode 0x05 0x000A 0xFFF6) ∧
  decode 0x0904000000000000 = .instr (.rdReg 0x04) ∧
  decode 0x0600000000000000 = .instr .frmDecode

/-- Words over a byte-wide path go most significant byte first (R54): byte `k` of a command word is its
bits `63 - 8k` to `56 - 8k`, byte `k` of a response word its bits `31 - 8k` to `24 - 8k`, and the bytes of
a command word give back the word. -/
def Obligations.ByteWidePathKeepsTheWord : Prop :=
  (∀ w : CmdWord, (wordBytes w).length = 8 ∧
    ∀ k, k < 8 → (wordBytes w)[k]? = some (w.extractLsb' (56 - 8 * k) 8)) ∧
  (∀ r : RspWord, (rspBytes r).length = 4 ∧
    ∀ k, k < 4 → (rspBytes r)[k]? = some (r.extractLsb' (24 - 8 * k) 8)) ∧
  (∀ w : CmdWord, wordOfBytes (wordBytes w) = some w) ∧
  (∀ (bs : List Byte) (w : CmdWord), wordOfBytes bs = some w → wordBytes w = bs)

/-- Form by form, the words of R79: a written command is assembled exactly when its operands lie in the
ranges of R79, to the word with each operand in its place, and that word decodes to the command with
these operands. 8-bit operands keep their value, and 16-bit operands keep it as signed and as unsigned
numbers. The zero tail of 48 bits after a one-byte operand is read from R70 and R74 (log 12). -/
def Obligations.AssembledWordDecodesToTheCommand : Prop :=
  assembles .nop True (0x00#8 ++ 0#56) .nop ∧
  assembles .crcInit True (0x01#8 ++ 0#56) .crcInit ∧
  (∀ b : Int, assembles (.crcStep b) (isU8 b)
    (0x02#8 ++ BitVec.ofInt 8 b ++ 0#48) (.crcStep (BitVec.ofInt 8 b))) ∧
  (∀ i : Int, assembles (.tblRead i) (isU8 i)
    (0x03#8 ++ BitVec.ofInt 8 i ++ 0#48) (.tblRead (BitVec.ofInt 8 i))) ∧
  (∀ b : Int, assembles (.frmPush b) (isU8 b)
    (0x04#8 ++ BitVec.ofInt 8 b ++ 0#48) (.frmPush (BitVec.ofInt 8 b))) ∧
  (∀ f0 f1 f2 f3 f4 f5 : Int, assembles (.frmLoad f0 f1 f2 f3 f4 f5)
    (isU8 f0 ∧ isU8 f1 ∧ isU8 f2 ∧ isU8 f3 ∧ isU8 f4 ∧ isU8 f5)
    (0x05#8 ++ BitVec.ofInt 8 f0 ++ BitVec.ofInt 8 f1 ++ BitVec.ofInt 8 f2 ++ BitVec.ofInt 8 f3 ++
      BitVec.ofInt 8 f4 ++ BitVec.ofInt 8 f5 ++ 0#8)
    (.frmLoad (BitVec.ofInt 8 f0) (BitVec.ofInt 8 f1) (BitVec.ofInt 8 f2) (BitVec.ofInt 8 f3)
      (BitVec.ofInt 8 f4) (BitVec.ofInt 8 f5))) ∧
  assembles .frmDecode True (0x06#8 ++ 0#56) .frmDecode ∧
  assembles .frmClear True (0x07#8 ++ 0#56) .frmClear ∧
  (∀ idx enc stp : Int, assembles (.frmEncode idx enc stp) (isU8 idx ∧ isHalf enc ∧ isHalf stp)
    (0x08#8 ++ BitVec.ofInt 8 idx ++ BitVec.ofInt 16 enc ++ BitVec.ofInt 16 stp ++ 0#16)
    (.frmEncode (BitVec.ofInt 8 idx) (BitVec.ofInt 16 enc) (BitVec.ofInt 16 stp))) ∧
  (∀ r : Int, assembles (.rdReg r) (isU8 r)
    (0x09#8 ++ BitVec.ofInt 8 r ++ 0#48) (.rdReg (BitVec.ofInt 8 r))) ∧
  (∀ v : Int, isU8 v → ((BitVec.ofInt 8 v).toNat : Int) = v) ∧
  (∀ v : Int, -32768 ≤ v → v ≤ 32767 → s16 (BitVec.ofInt 16 v) = v) ∧
  (∀ v : Int, 0 ≤ v → v ≤ 65535 → ((BitVec.ofInt 16 v).toNat : Int) = v) ∧
  (∀ c : AsmCmd, c.wellFormed = true →
    ∃ w, assembleCmd c = some w ∧ decode w = .instr (asmInstr c)) ∧
  (∀ c : AsmCmd, c.wellFormed = false → assembleCmd c = none)

/-! ### The step (00_scope.md, 20_memory.md, 60_exceptions.md) -/

/-- A step runs the decoded command: what `step` adds around `exec` is that the move is consumed. -/
def Obligations.StepRunsTheDecodedCommand : Prop :=
  ∀ (s : State) (w : CmdWord) (rest : List HostMove) (i : Instr),
    s.engine.legal = true → s.input = .command w :: rest → decode w = .instr i →
      step s = exec i { s with input := rest }

/-- A step is R5's `step : Params → State → CmdWord → State × RspWord` on the engine; the response is
appended and the move is consumed. -/
def Obligations.StepIsTheStepRelation : Prop :=
  ∀ (s : State) (w : CmdWord), wordRuns s w
    (cmdStep Config.params s.engine w).1 (cmdStep Config.params s.engine w).2

/-- Every word gets exactly one response, with the status of R203's order and the word's opcode. -/
def Obligations.EveryWordIsAnsweredByPriority : Prop :=
  ∀ (s : State) (w : CmdWord) (rest : List HostMove), s.engine.legal = true →
    ∃ t r, step (s.withMoves (.command w :: rest)) = .next t ∧ t.input = rest ∧
      t.responses = s.responses ++ [r] ∧
      r.extractLsb' 24 8 = statusByPriority s.engine w ∧
      r.extractLsb' 16 8 = w.extractLsb' 56 8

/-- A command error writes no state and carries no data (R201). -/
def Obligations.CommandErrorWritesNothing : Prop :=
  ∀ (s t : State) (w : CmdWord) (rest : List HostMove) (r : RspWord),
    step (s.withMoves (.command w :: rest)) = .next t → t.responses = s.responses ++ [r] →
    (r.extractLsb' 24 8 = 0x01#8 ∨ r.extractLsb' 24 8 = 0x02#8 ∨ r.extractLsb' 24 8 = 0x03#8) →
      t.engine = s.engine ∧ r.extractLsb' 0 16 = 0x0000#16

/-- The "written by" column of R20 for every command: a register that a command is not named for keeps
its value. -/
def Obligations.OnlyTheNamedCommandsWriteARegister : Prop :=
  ∀ (i : Instr) (s t : State), exec i s = .next t →
    (opcodeOf i ∉ [0x01#8, 0x02#8] → t.engine.acc = s.engine.acc) ∧
    (opcodeOf i ∉ [0x04#8, 0x05#8, 0x08#8] → t.engine.fbuf = s.engine.fbuf) ∧
    (opcodeOf i ∉ [0x04#8, 0x05#8, 0x06#8, 0x07#8, 0x08#8] →
      t.engine.fcount = s.engine.fcount ∧ t.engine.fovf = s.engine.fovf) ∧
    (opcodeOf i ∉ [0x06#8, 0x07#8] → t.engine.fstat = s.engine.fstat) ∧
    (opcodeOf i ≠ 0x06#8 →
      t.engine.resIndex = s.engine.resIndex ∧ t.engine.resEnc = s.engine.resEnc ∧
      t.engine.resStp = s.engine.resStp ∧ t.engine.resCrcCalc = s.engine.resCrcCalc ∧
      t.engine.resCrcRecv = s.engine.resCrcRecv) ∧
    t.engine.table = s.engine.table ∧
    t.input = s.input ∧ (∃ r, t.responses = s.responses ++ [r])

/-- With no move of the host the engine holds its state (R214). That the machine then takes a step that
changes nothing is the model's choice (log 5). -/
def Obligations.IdleEngineHoldsItsState : Prop :=
  ∀ s : State, s.engine.legal = true → step (s.withMoves []) = .next (s.withMoves [])

/-- The treatment `fault` of 93_implementation_defined.md P9: a state the rules cannot reach stops, and
no other state does. That the step itself checks is the model's choice (log 9). -/
def Obligations.UnreachableStateFaults : Prop :=
  ∀ s : State,
    (step s = .fault .unreachableState ↔
      (6 < s.engine.fcount.toNat ∨ (s.engine.fovf = true ∧ s.engine.fcount.toNat < 6) ∨
        s.engine.fstat ∉ [0x00#5, 0x03#5, 0x07#5, 0x09#5, 0x11#5])) ∧
    (∀ r, step s ≠ .refused r)

/-! ### The CRC-8 engine (40_crc_engine.md) -/

/-- "Masking after all eight iterations gives the same entry as masking after each one" (R101): the
table entry is computed as well on a value that is let grow to 16 bits and masked at the end. -/
def Obligations.MaskingAtTheEndGivesTheSameEntry : Prop :=
  ∀ poly v : Byte,
    tableEntry poly v =
      (Nat.repeat (fun c : BitVec 16 =>
        if c.getLsbD 7 then (c <<< 1) ^^^ poly.setWidth 16 else c <<< 1) 8 (v.setWidth 16)).setWidth 8

/-- Linearity of the table, for every polynomial (R103). -/
def Obligations.TableIsLinear : Prop :=
  ∀ poly a b : Byte,
    lookup (buildTable poly) (a ^^^ b) = lookup (buildTable poly) a ^^^ lookup (buildTable poly) b

/-- The table is a permutation of 0 to 255 for every polynomial with bit 0 set (R103). -/
def Obligations.TableIsAPermutation : Prop :=
  ∀ poly : Byte, poly.getLsbD 0 = true → Function.Bijective (lookup (buildTable poly))

/-- The small properties of the fold: the empty input, one byte, entries 0 and 1, a zero prefix, and
that order matters (R103). -/
def Obligations.ChecksumFoldProperties : Prop :=
  (∀ poly : Byte, crc8 (buildTable poly) [] = 0x00) ∧
  (∀ poly x : Byte, crc8 (buildTable poly) [x] = lookup (buildTable poly) x) ∧
  (∀ poly : Byte, lookup (buildTable poly) 0x00 = 0x00 ∧ lookup (buildTable poly) 0x01 = poly) ∧
  (∀ (poly : Byte) (p : List Byte), crc8 (buildTable poly) (0x00 :: p) = crc8 (buildTable poly) p) ∧
  crc8 (buildTable 0x83) [0x01, 0x02] = 0x81 ∧ crc8 (buildTable 0x83) [0x02, 0x01] = 0x8B

/-- Residue: a sequence and its own checksum fold to zero, for every polynomial (R103). -/
def Obligations.OwnChecksumFoldsToZero : Prop :=
  ∀ (poly : Byte) (p : List Byte),
    crc8 (buildTable poly) (p ++ [crc8 (buildTable poly) p]) = 0x00

/-- R106. -/
def Obligations.CrcInitClearsTheAccumulator : Prop :=
  ∀ s : State,
    let e := { s.engine with acc := 0x00 }
    exec .crcInit s = .next { s with engine := e, responses := s.responses ++ [0x00010000] } ∧
    wordRuns s 0x0100000000000000 e 0x00010000 ∧
    reservedBitsRefused s 0x01 0x00FFFFFFFFFFFFFF

/-- R107, with its corner cases. -/
def Obligations.CrcStepFoldsOneByte : Prop :=
  ∀ (s : State) (b : Byte),
    let acc := lookup s.engine.table (b ^^^ s.engine.acc)
    let e := { s.engine with acc := acc }
    let r := 0x00#8 ++ 0x02#8 ++ (0x00#8 ++ acc)
    exec (.crcStep b) s = .next { s with engine := e, responses := s.responses ++ [r] } ∧
    wordRuns s (0x02#8 ++ b ++ 0#48) e r ∧
    reservedBitsRefused s 0x02 0x0000FFFFFFFFFFFF ∧
    (s.engine.table = buildTable 0x83 →
      (b = s.engine.acc → acc = 0x00) ∧ (s.engine.acc = 0x00 → b = 0x05 → acc = 0x0A)) ∧
    (∀ bs : List Byte,
      (cmdRun Config.params s.engine
        (0x0100000000000000 :: bs.map fun x => 0x02#8 ++ x ++ 0#48)).1.acc = crc8 s.engine.table bs)

/-- R108, with its corner cases. -/
def Obligations.TblReadAnswersTheEntry : Prop :=
  ∀ (s : State) (i : Byte),
    let r := 0x00#8 ++ 0x03#8 ++ (0x00#8 ++ lookup s.engine.table i)
    exec (.tblRead i) s = .next { s with responses := s.responses ++ [r] } ∧
    wordRuns s (0x03#8 ++ i ++ 0#48) s.engine r ∧
    reservedBitsRefused s 0x03 0x0000FFFFFFFFFFFF ∧
    (s.engine.table = buildTable 0x83 →
      (i = 0x00 → r = 0x00030000) ∧ (i = 0x01 → r = 0x00030083) ∧ (i = 0xFF → r = 0x0003007D))

/-- CRC.SEQ, run by the machine from any legal state, leaves the checksum of its bytes in `ACC`, writes
nothing else, and answers once for each of its commands (R80, R102, R107). -/
def Obligations.CrcSeqLeavesTheChecksum : Prop :=
  ∀ (s : State) (bs : List Byte) (rest : List HostMove), s.engine.legal = true →
    ∃ t : State,
      Sys2Proof.core.run (bs.length + 1) (s.withMoves (moves (crcSeq bs) ++ rest)) = .next t ∧
      t.engine = { s.engine with acc := crc8 s.engine.table bs } ∧
      t.input = rest ∧
      ∃ rs, t.responses = s.responses ++ rs ∧ rs.length = bs.length + 1

/-! ### The frame codec (41_frame_codec.md) -/

/-- The field extractor in integers, with the corner values of R131. -/
def Obligations.FieldExtractorIsBigEndianSigned : Prop :=
  (∀ f : Vector Byte 6,
    let signed := fun hi lo : Byte =>
      if hi.toNat < 0x80 then 256 * (hi.toNat : Int) + lo.toNat
      else 256 * (hi.toNat : Int) + lo.toNat - 65536
    frameIndex f = f[0] ∧ frameCrcRecv f = f[5] ∧
    frameEncoder f = f[1] ++ f[2] ∧ s16 (frameEncoder f) = signed f[1] f[2] ∧
    frameStepper f = f[3] ++ f[4] ∧ s16 (frameStepper f) = signed f[3] f[4]) ∧
  s16 (beHalf 0x80 0x00) = -32768 ∧ s16 (beHalf 0x7F 0xFF) = 32767 ∧ s16 (beHalf 0xFF 0xFF) = -1 ∧
  s16 (beHalf 0x00 0x00) = 0 ∧ s16 (beHalf 0xFF 0xF6) = -10

/-- `s16` and `u16` are inverse on patterns and on the integers from -32768 to 32767 (R8). -/
def Obligations.SignedPatternsRoundTrip : Prop :=
  (∀ u : Half, u16 (s16 u) = u ∧ -32768 ≤ s16 u ∧ s16 u ≤ 32767) ∧
  (∀ i : Int, -32768 ≤ i → i ≤ 32767 → s16 (u16 i) = i)

/-- R136: a push below 6 appends the byte, a push on a full buffer drops it and sets `FOVF`, after
which a decode reports a length error. -/
def Obligations.FrmPushAppendsOrOverflows : Prop :=
  ∀ (s : State) (b : Byte),
    (∀ h : s.engine.fcount.toNat < 6,
      let e := { s.engine with
        fbuf := s.engine.fbuf.set s.engine.fcount.toNat b h, fcount := s.engine.fcount + 1 }
      let r := 0x00#8 ++ 0x04#8 ++
        (0x00#8 ++ (BitVec.ofBool s.engine.fovf ++ 0b0000#4 ++ (s.engine.fcount + 1)))
      exec (.frmPush b) s = .next { s with engine := e, responses := s.responses ++ [r] } ∧
      wordRuns s (0x04#8 ++ b ++ 0#48) e r) ∧
    (s.engine.fcount = 6 →
      let e := { s.engine with fovf := true }
      let t := { s with engine := e, responses := s.responses ++ [0x05040086] }
      exec (.frmPush b) s = .next t ∧
      wordRuns s (0x04#8 ++ b ++ 0#48) e 0x05040086 ∧
      ∃ u, exec .frmDecode t = .next u ∧ u.responses = t.responses ++ [0x04060011]) ∧
    reservedBitsRefused s 0x04 0x0000FFFFFFFFFFFF

/-- R137. -/
def Obligations.FrmLoadFillsTheBuffer : Prop :=
  ∀ (s : State) (f0 f1 f2 f3 f4 f5 : Byte),
    let e := { s.engine with fbuf := #v[f0, f1, f2, f3, f4, f5], fcount := 6, fovf := false }
    exec (.frmLoad f0 f1 f2 f3 f4 f5) s =
      .next { s with engine := e, responses := s.responses ++ [0x00050006] } ∧
    wordRuns s (0x05#8 ++ f0 ++ f1 ++ f2 ++ f3 ++ f4 ++ f5 ++ 0#8) e 0x00050006 ∧
    reservedBitsRefused s 0x05 0x00000000000000FF

/-- R138: the four paths, guards included, each with its writes and its response. -/
def Obligations.FrmDecodeFollowsItsFourPaths : Prop :=
  ∀ s : State,
    (s.engine.fcount ≠ 6 ∨ s.engine.fovf = true →
      exec .frmDecode s = .next { s with
        engine := { s.engine with fcount := 0, fovf := false, fstat := 0b10001 }
        responses := s.responses ++ [0x04060011] }) ∧
    (s.engine.fcount = 6 → s.engine.fovf = false → holdsBreak s.engine →
      exec .frmDecode s = .next { s with
        engine := { s.engine with fcount := 0, fovf := false, fstat := 0b01001 }
        responses := s.responses ++ [0x07060009] }) ∧
    (s.engine.fcount = 6 → s.engine.fovf = false → ¬ holdsBreak s.engine →
      bufferCrc s.engine = s.engine.fbuf[5] →
      exec .frmDecode s = .next { s with
        engine := extracted s.engine 0b00111, responses := s.responses ++ [0x00060007] }) ∧
    (s.engine.fcount = 6 → s.engine.fovf = false → ¬ holdsBreak s.engine →
      bufferCrc s.engine ≠ s.engine.fbuf[5] →
      exec .frmDecode s = .next { s with
        engine := extracted s.engine 0b00011, responses := s.responses ++ [0x06060003] }) ∧
    (∀ (t : State) (r : RspWord), exec .frmDecode s = .next t → t.responses = s.responses ++ [r] →
      wordRuns s 0x0600000000000000 t.engine r) ∧
    reservedBitsRefused s 0x06 0x00FFFFFFFFFFFFFF

/-- The corner cases and the example of R138: a second decode, the decode right after reset, the
all-zero frame, and the frame `[00 00 0A 00 0A 44]`. -/
def Obligations.FrmDecodeCornerCases : Prop :=
  (∀ s t : State, exec .frmDecode s = .next t →
    ∃ u, exec .frmDecode t = .next u ∧ u.responses = t.responses ++ [0x04060011]) ∧
  (∃ t, exec .frmDecode State.reset = .next t ∧ t.responses = [0x04060011]) ∧
  (∀ s : State, s.engine.table = buildTable 0x83 → s.engine.fcount = 6 → s.engine.fovf = false →
    (s.engine.fbuf = #v[0x00, 0x00, 0x00, 0x00, 0x00, 0x00] →
      ∃ t, exec .frmDecode s = .next t ∧
        t.responses = s.responses ++ [if Config.breakByte = 0x00 then 0x07060009 else 0x00060007]) ∧
    (s.engine.fbuf = #v[0x00, 0x00, 0x0A, 0x00, 0x0A, 0x44] →
      ∃ t, exec .frmDecode s = .next t ∧ t.responses = s.responses ++ [0x00060007] ∧
        t.engine.resIndex = 0x00 ∧ t.engine.resEnc = 0x000A ∧ t.engine.resStp = 0x000A ∧
        t.engine.resCrcCalc = 0x44 ∧ t.engine.resCrcRecv = 0x44 ∧ t.engine.fstat = 0x07))

/-- R139: the buffer is discarded and `FSTAT` cleared, and a decode then reports a length error. -/
def Obligations.FrmClearDiscardsTheFrame : Prop :=
  ∀ s : State,
    let e := { s.engine with fcount := 0, fovf := false, fstat := 0b00000 }
    let t := { s with engine := e, responses := s.responses ++ [0x00070000] }
    exec .frmClear s = .next t ∧
    wordRuns s 0x0700000000000000 e 0x00070000 ∧
    reservedBitsRefused s 0x07 0x00FFFFFFFFFFFFFF ∧
    ∃ u, exec .frmDecode t = .next u ∧ u.responses = t.responses ++ [0x04060011]

/-- R140: bytes 0 to 4 are the operands, most significant byte first, and byte 5 is their checksum. -/
def Obligations.FrmEncodeBuildsTheFrame : Prop :=
  ∀ (s : State) (idx : Byte) (enc stp : Half),
    let p := [idx, enc.extractLsb' 8 8, enc.extractLsb' 0 8, stp.extractLsb' 8 8, stp.extractLsb' 0 8]
    let c := crc8 s.engine.table p
    let e := { s.engine with
      fbuf := #v[idx, enc.extractLsb' 8 8, enc.extractLsb' 0 8, stp.extractLsb' 8 8,
        stp.extractLsb' 0 8, c]
      fcount := 6
      fovf := false }
    let r := 0x00#8 ++ 0x08#8 ++ (0x00#8 ++ c)
    exec (.frmEncode idx enc stp) s = .next { s with engine := e, responses := s.responses ++ [r] } ∧
    wordRuns s (0x08#8 ++ idx ++ enc ++ stp ++ 0#16) e r ∧
    reservedBitsRefused s 0x08 0x000000000000FFFF ∧
    (s.engine.table = buildTable 0x83 → idx = 0x05 → enc = 0x000A → stp = 0xFFF6 → r = 0x00080065)

/-- R141: two steps, FRM.ENCODE then FRM.DECODE, give the fields back and validate, unless the frame is
the break sentinel; so does FRM.LOAD of five bytes and their checksum; and only for four values `x` of
`BREAK_BYTE` is there a constructed frame of six bytes `x`. -/
def Obligations.EncodeThenDecodeGivesTheFieldsBack : Prop :=
  (∀ (s : State) (idx : Byte) (enc stp : Half) (rest : List HostMove), s.engine.legal = true →
    ¬ (∀ k, ∀ h : k < 6, (frameOf s.engine.table idx enc stp)[k] = Config.breakByte) →
    ∃ (t : State) (r : RspWord),
      Sys2Proof.core.run 2 (s.withMoves
        (.command (0x08#8 ++ idx ++ enc ++ stp ++ 0#16) :: .command 0x0600000000000000 :: rest)) =
          .next t ∧
      t.input = rest ∧ t.responses = s.responses ++ [r, 0x00060007] ∧
      t.engine.resIndex = idx ∧ t.engine.resEnc = enc ∧ t.engine.resStp = stp ∧
      t.engine.resCrcCalc = t.engine.resCrcRecv) ∧
  (∀ (s : State) (f0 f1 f2 f3 f4 : Byte) (rest : List HostMove), s.engine.legal = true →
    let c := crc8 s.engine.table [f0, f1, f2, f3, f4]
    ¬ (∀ x ∈ [f0, f1, f2, f3, f4, c], x = Config.breakByte) →
    ∃ t : State,
      Sys2Proof.core.run 2 (s.withMoves
        (.command (0x05#8 ++ f0 ++ f1 ++ f2 ++ f3 ++ f4 ++ c ++ 0#8) ::
          .command 0x0600000000000000 :: rest)) = .next t ∧
      t.input = rest ∧ t.responses = s.responses ++ [0x00050006, 0x00060007] ∧
      t.engine.resIndex = f0 ∧ t.engine.resEnc = f1 ++ f2 ∧ t.engine.resStp = f3 ++ f4 ∧
      t.engine.resCrcCalc = t.engine.resCrcRecv) ∧
  (∀ (x idx : Byte) (enc stp : Half),
    (∀ k, ∀ h : k < 6, (frameOf (buildTable 0x83) idx enc stp)[k] = x) →
      x ∈ [0x00#8, 0x7F#8, 0x81#8, 0xFE#8])

/-- R142: which all-identical frames validate, and what the engine answers to them. -/
def Obligations.AllIdenticalFramesAndTheSentinel : Prop :=
  ∀ x : Byte,
    (crc8 (buildTable 0x83) [x, x, x, x, x] = x ↔ x ∈ [0x00#8, 0x7F#8, 0x81#8, 0xFE#8]) ∧
    ∀ s : State, s.engine.table = buildTable 0x83 →
      ∃ t u, exec (.frmLoad x x x x x x) s = .next t ∧ exec .frmDecode t = .next u ∧
        (x = Config.breakByte → u.responses = s.responses ++ [0x00050006, 0x07060009]) ∧
        (x ≠ Config.breakByte → x ∈ [0x00#8, 0x7F#8, 0x81#8, 0xFE#8] →
          u.responses = s.responses ++ [0x00050006, 0x00060007]) ∧
        (x ≠ Config.breakByte → x ∉ [0x00#8, 0x7F#8, 0x81#8, 0xFE#8] →
          u.responses = s.responses ++ [0x00050006, 0x06060003])

/-- R143: every single-bit error of a valid frame is detected; a double-bit error passes exactly when
the two positions lie 14, 28 or 42 apart, which is 34, 20 and 6 of the 1128 pairs. -/
def Obligations.SingleAndDoubleBitErrors : Prop :=
  (∀ f : Vector Byte 6, frameValid (buildTable 0x83) f = true →
    (∀ i, i < 48 → frameValid (buildTable 0x83) (flipBit f i) = false) ∧
    (∀ i j, i < j → j < 48 →
      (frameValid (buildTable 0x83) (flipBit (flipBit f i) j) = true ↔
        j - i = 14 ∨ j - i = 28 ∨ j - i = 42))) ∧
  (let pairs := (List.range 48).flatMap (fun j => (List.range j).map (fun i => j - i))
   pairs.length = 1128 ∧ pairs.count 14 = 34 ∧ pairs.count 28 = 20 ∧ pairs.count 42 = 6) ∧
  frameValid (buildTable 0x83) #v[0x05, 0x00, 0x0A, 0x00, 0x0A, 0xE4] = true ∧
  flipBit (flipBit #v[0x05, 0x00, 0x0A, 0x00, 0x0A, 0xE4] 0) 14 = #v[0x85, 0x02, 0x0A, 0x00, 0x0A, 0xE4]

/-- FRM.RECV of six bytes into an empty buffer leaves the engine that FRM.LOAD of them leaves (R80,
R136, R137), and answers with the rising `FCNT`. -/
def Obligations.SixPushesEqualOneLoad : Prop :=
  ∀ (s : State) (f0 f1 f2 f3 f4 f5 : Byte) (rest : List HostMove),
    s.engine.legal = true → s.engine.fcount = 0 →
    ∃ t u : State,
      Sys2Proof.core.run 6 (s.withMoves (moves (frmRecv f0 f1 f2 f3 f4 f5) ++ rest)) = .next t ∧
      exec (.frmLoad f0 f1 f2 f3 f4 f5) s = .next u ∧
      t.engine = u.engine ∧ t.input = rest ∧
      t.responses = s.responses ++
        [0x00040001, 0x00040002, 0x00040003, 0x00040004, 0x00040005, 0x00040006]

/-- FRM.PARSE depends on its six bytes and the table alone: from every legal state it answers what
`decode`, the sentinel check and `validate` give (R80, R135). -/
def Obligations.FrmParseAnswersFromItsBytesAlone : Prop :=
  ∀ (s : State) (f0 f1 f2 f3 f4 f5 : Byte) (rest : List HostMove), s.engine.legal = true →
    ∃ t : State,
      Sys2Proof.core.run 2 (s.withMoves (moves (frmParse f0 f1 f2 f3 f4 f5) ++ rest)) = .next t ∧
      t.input = rest ∧
      t.responses = s.responses ++ [0x00050006,
        if ∀ x ∈ [f0, f1, f2, f3, f4, f5], x = Config.breakByte then 0x07060009
        else if crc8 s.engine.table [f0, f1, f2, f3, f4] = f5 then 0x00060007 else 0x06060003]

/-- The results in the source's terms after a decode on the extraction path (R144): the signed deltas,
the outcome, the expected checksum and the raw bytes. The shape of the record is the model's choice
(log 13). -/
def Obligations.ResultsInTheSourcesTerms : Prop :=
  ∀ s t : State, s.engine.fcount = 6 → s.engine.fovf = false → ¬ holdsBreak s.engine →
    exec .frmDecode s = .next t →
      sampleView t.engine = some
        { index := s.engine.fbuf[0]
          encoderDelta := s16 (s.engine.fbuf[1] ++ s.engine.fbuf[2])
          stepperDelta := s16 (s.engine.fbuf[3] ++ s.engine.fbuf[4])
          goodCrc := decide (bufferCrc s.engine = s.engine.fbuf[5])
          expectedCrc := bufferCrc s.engine
          rawBytes := [s.engine.fbuf[0], s.engine.fbuf[1], s.engine.fbuf[2], s.engine.fbuf[3],
            s.engine.fbuf[4], s.engine.fbuf[5]] }

/-! ### The control commands (42_control.md) -/

/-- R170. -/
def Obligations.NopWritesNothing : Prop :=
  ∀ s : State,
    exec .nop s = .next { s with responses := s.responses ++ [0x00000000] } ∧
    wordRuns s 0x0000000000000000 s.engine 0x00000000 ∧
    reservedBitsRefused s 0x00 0x00FFFFFFFFFFFFFF

/-- R171, with the view of R30: the value of each of the sixteen registers, and BAD_REGNUM for the
reserved numbers. -/
def Obligations.RdRegAnswersTheView : Prop :=
  ∀ s : State,
    (∀ x ∈ [ (0x00#8, 0x00#8 ++ s.engine.acc),
        (0x01#8, 0x00#8 ++ (BitVec.ofBool s.engine.fovf ++ 0b0000#4 ++ s.engine.fcount)),
        (0x02#8, 0x00#8 ++ (0b000#3 ++ s.engine.fstat)), (0x03#8, 0x00#8 ++ s.engine.resIndex),
        (0x04#8, s.engine.resEnc), (0x05#8, s.engine.resStp),
        (0x06#8, 0x00#8 ++ s.engine.resCrcCalc), (0x07#8, 0x00#8 ++ s.engine.resCrcRecv),
        (0x08#8, 0x00#8 ++ s.engine.fbuf[0]), (0x09#8, 0x00#8 ++ s.engine.fbuf[1]),
        (0x0A#8, 0x00#8 ++ s.engine.fbuf[2]), (0x0B#8, 0x00#8 ++ s.engine.fbuf[3]),
        (0x0C#8, 0x00#8 ++ s.engine.fbuf[4]), (0x0D#8, 0x00#8 ++ s.engine.fbuf[5]),
        (0x0E#8, 0x0083#16), (0x0F#8, 0x00#8 ++ Config.breakByte) ],
      exec (.rdReg x.1) s =
        .next { s with responses := s.responses ++ [0x00#8 ++ 0x09#8 ++ x.2] } ∧
      wordRuns s (0x09#8 ++ x.1 ++ 0#48) s.engine (0x00#8 ++ 0x09#8 ++ x.2)) ∧
    (∀ r : Byte, 0x10 ≤ r.toNat →
      exec (.rdReg r) s = .next { s with responses := s.responses ++ [0x03090000] } ∧
      wordRuns s (0x09#8 ++ r ++ 0#48) s.engine 0x03090000) ∧
    reservedBitsRefused s 0x09 0x0000FFFFFFFFFFFF

/-! ### Reset (10_state.md, 70_reset_and_hazards.md) -/

/-- R34 and R230: the host's reset sets every element, from every legal state, and produces no
response; the machine starts in that state. -/
def Obligations.ResetSetsEveryRegister : Prop :=
  let e : Engine :=
    { acc := 0x00, fbuf := #v[0x00, 0x00, 0x00, 0x00, 0x00, 0x00], fcount := 0, fovf := false,
      fstat := 0b00000, resIndex := 0x00, resEnc := 0x0000, resStp := 0x0000, resCrcCalc := 0x00,
      resCrcRecv := 0x00, table := buildTable 0x83 }
  (∀ (s : State) (rest : List HostMove), s.engine.legal = true →
    step (s.withMoves (.reset :: rest)) =
      .next { engine := e, input := rest, responses := s.responses }) ∧
  State.reset.engine = e

/-- `rst` while a command is in flight aborts it: no response, and the state of R230 whatever the command
(R231). That the abort is one move of the host is the model's choice (log 6). -/
def Obligations.AbortedCommandLeavesTheResetState : Prop :=
  ∀ (s : State) (w : CmdWord) (rest : List HostMove), s.engine.legal = true →
    step (s.withMoves (.abort w :: rest)) = step (s.withMoves (.reset :: rest)) ∧
    ∃ t, step (s.withMoves (.abort w :: rest)) = .next t ∧ t.engine = State.reset.engine ∧
      t.input = rest ∧ t.responses = s.responses

/-! ### Invariants and isolation -/

/-- The invariant holds after reset. -/
def Obligations.InvariantHoldsAtReset : Prop := State.reset.engine.Inv

/-- Every step keeps the invariant: `FCOUNT` at most 6, `FOVF` only with a full buffer, `FSTAT` one of
five values that agrees with the result registers, `RES_CRC_CALC` the checksum of the fields beside it,
`TABLE` the table of `POLY` (R23, R24, R25, R28, R31, R32). -/
def Obligations.EveryStepKeepsTheInvariant : Prop :=
  ∀ s t : State, s.engine.Inv → step s = .next t → t.engine.Inv

/-- Whatever the host sends, a run from a state that meets the invariant never faults and is never
refused, and each command has had its one response when the moves are used up (R5, R73, R201, R243).
Three of the model's choices stand under it: the steps past the last move are idle steps (log 5), an
aborted command is one move (log 6), and every accepted command completes (log 8). -/
def Obligations.NoWordStopsTheEngine : Prop :=
  ∀ s : State, s.engine.Inv →
    SafeRun s ∧
    ∀ ws : List CmdWord, ∃ (t : State) (rs : List RspWord),
      Sys2Proof.core.run ws.length (s.withWords ws) = .next t ∧ t.input = [] ∧
      t.responses = s.responses ++ rs ∧ rs.length = ws.length ∧
      (t.engine, rs) = cmdRun Config.params s.engine ws

/-- A command's effect depends on the engine, the parameters and the word only: machines with the same
engine and different earlier responses answer the same words the same (R33, R35). -/
def Obligations.ResponsesDependOnTheEngineAlone : Prop :=
  ∀ (s₁ s₂ : State) (n : Nat) (t₁ : State), s₁.engine = s₂.engine → s₁.input = s₂.input →
    Sys2Proof.core.run n s₁ = .next t₁ →
    ∃ (t₂ : State) (rs : List RspWord), Sys2Proof.core.run n s₂ = .next t₂ ∧
      t₂.engine = t₁.engine ∧ t₂.input = t₁.input ∧
      t₁.responses = s₁.responses ++ rs ∧ t₂.responses = s₂.responses ++ rs

/-- The frame commands neither read nor write `ACC`: their responses and their other effects are the
same for every accumulator (R133, R237). -/
def Obligations.FrameCommandsIgnoreTheAccumulator : Prop :=
  ∀ (i : Instr) (s t : State) (a : Byte),
    opcodeOf i ∈ [0x04#8, 0x05#8, 0x06#8, 0x07#8, 0x08#8] → exec i s = .next t →
      exec i { s with engine := { s.engine with acc := a } } =
        .next { t with engine := { t.engine with acc := a } }

/-- The CRC commands neither read nor write the frame buffer, `FSTAT` or the result registers: two
engines with the same `ACC` and `TABLE` answer alike and keep the same `ACC` (R106, R107, R108). -/
def Obligations.CrcCommandsIgnoreTheFrame : Prop :=
  ∀ (i : Instr) (s₁ s₂ t₁ : State), opcodeOf i ∈ [0x01#8, 0x02#8, 0x03#8] →
    s₁.engine.acc = s₂.engine.acc → s₁.engine.table = s₂.engine.table → exec i s₁ = .next t₁ →
      ∃ r, t₁.responses = s₁.responses ++ [r] ∧
        exec i s₂ = .next { s₂ with
          engine := { s₂.engine with acc := t₁.engine.acc }
          responses := s₂.responses ++ [r] }

/-- `FSTAT` describes the last FRM.DECODE, and the result registers an older frame after a length error
or a break (R234, R235): only FRM.DECODE and FRM.CLEAR change `FSTAT`, and a decode that leaves
`FSTAT.FRAME` clear leaves the five result registers as they were. -/
def Obligations.ResultsStayUntilTheNextExtraction : Prop :=
  ∀ (i : Instr) (s t : State), exec i s = .next t →
    ((∀ j ∈ [.frmDecode, .frmClear], i ≠ j) → t.engine.fstat = s.engine.fstat) ∧
    (i = .frmDecode → t.engine.fstat.getLsbD 0 = true) ∧
    ((i ≠ .frmDecode ∨ t.engine.fstat.getLsbD 1 = false) →
      t.engine.resIndex = s.engine.resIndex ∧ t.engine.resEnc = s.engine.resEnc ∧
      t.engine.resStp = s.engine.resStp ∧ t.engine.resCrcCalc = s.engine.resCrcCalc ∧
      t.engine.resCrcRecv = s.engine.resCrcRecv)
end

