-- ==== Sys2Proof/Laws/Bits.lean ====
section
/-!
SUPPORT. Fields of a concatenation. A width that is written as a number (`BitVec 64`) is first shown as
the sum of the parts' widths: `show (… : BitVec (8 + 8 + 48)).extractLsb' _ _ = _`.
-/

namespace Sys2Proof

/-- A field that lies in the high part. -/
theorem extractLsb'_append_high {a b : Nat} (x : BitVec a) (y : BitVec b) (s n : Nat) (h : b ≤ s) :
    (x ++ y).extractLsb' s n = x.extractLsb' (s - b) n := by
  ext i hi
  have h1 : ¬ s + i < b := by omega
  have h2 : s + i - b = s - b + i := by omega
  simp [BitVec.getLsbD_append, BitVec.getElem_extractLsb', h1, h2]

/-- A field that lies in the low part. -/
theorem extractLsb'_append_low {a b : Nat} (x : BitVec a) (y : BitVec b) (s n : Nat)
    (h : s + n ≤ b) : (x ++ y).extractLsb' s n = y.extractLsb' s n := by
  ext i hi
  have : s + i < b := by omega
  simp [BitVec.getLsbD_append, BitVec.getElem_extractLsb', this]

/-- A value whose every bit lies in one of two fields is their concatenation. -/
theorem append_extractLsb' {a b : Nat} (w : BitVec (a + b)) :
    w.extractLsb' b a ++ w.extractLsb' 0 b = w := by
  ext i hi
  simp only [BitVec.getElem_append, BitVec.getElem_extractLsb']
  split
  · simp [BitVec.getLsbD_eq_getElem hi]
  · next h =>
    have : b + (i - b) = i := by omega
    simp [this, BitVec.getLsbD_eq_getElem hi]

end Sys2Proof
end

