-- ==== Sys2Proof/Laws/Decode.lean ====
section
/-!
SUPPORT. The opcode map's rows by opcode, the fields of an encoded word, and the decoder's outcomes by
the row of the opcode.
-/

namespace Sys2Proof

/-- R75, first case. -/
theorem decode_of_opRow_none (w : CmdWord) (h : opRow (opField w) = none) :
    decode w = .illegalOpcode := by
  simp [decode, h]

/-- R75, third case. -/
theorem decode_of_opRow_some (w : CmdWord) (row : OpRow) (h : opRow (opField w) = some row)
    (hw : w &&& row.mask = row.pattern) : decode w = .instr (row.operands w) := by
  simp [decode, h, hw]

/-- R75, second case. -/
theorem decode_of_reserved (w : CmdWord) (row : OpRow) (h : opRow (opField w) = some row)
    (hw : ¬ w &&& row.mask = row.pattern) : decode w = .reservedField := by
  simp [decode, h, hw]

/-- The opcodes with a row are `0x00` to `0x09` (R74). -/
theorem opRow_isSome (op : Byte) : (opRow op).isSome = decide (op.toNat < 0x0A) := by
  revert op; decide +kernel

/-- What the decoder does with a word: no row and ILLEGAL_OPCODE, or one of the ten rows and its mask
test (R75). -/
theorem decode_cases (w : CmdWord) :
    (0x0A ≤ (opField w).toNat ∧ decode w = .illegalOpcode) ∨
      ∃ row ∈ opcodeTable, opField w = row.opcode ∧
        decode w = if w &&& row.mask = row.pattern then .instr (row.operands w) else .reservedField := by
  cases h : opRow (opField w) with
  | none =>
    have hs := opRow_isSome (opField w)
    rw [h] at hs
    have := of_decide_eq_false hs.symm
    exact .inl ⟨by omega, decode_of_opRow_none w h⟩
  | some row =>
    refine .inr ⟨row, List.mem_of_find?_eq_some h, ?_, by simp [decode, h]⟩
    have hf := List.find?_some (p := fun row : OpRow => row.opcode == opField w) h
    exact (beq_iff_eq.mp hf).symm

/-- The opcode's eight bits of a word. -/
theorem and_top (w : CmdWord) : w &&& 0xFF00000000000000 = opField w ++ 0#56 := by
  have split := append_extractLsb' (a := 8) (b := 56) w
  have ones : (0xFF#8) = BitVec.allOnes 8 := by decide
  calc w &&& 0xFF00000000000000
      = (w.extractLsb' 56 8 ++ w.extractLsb' 0 56 : BitVec (8 + 56)) &&& (0xFF#8 ++ 0#56) := by
        rw [split]; rfl
    _ = opField w ++ 0#56 := by
        simp only [BitVec.and_append, ones, BitVec.and_allOnes, BitVec.and_zero, opField]

/-- Where the opcode is the row's, the mask test of R75 fails exactly when a must-be-zero bit is set. -/
theorem and_mask_eq_iff (w top zeros pattern : CmdWord) (ht : w &&& top = pattern)
    (hz : top &&& zeros = 0) : w &&& (top ||| zeros) = pattern ↔ w &&& zeros = 0 := by
  subst ht
  constructor <;> intro h <;> ext i hi
  · have h1 := congrArg (fun v : CmdWord => v[i]) h
    have h2 := congrArg (fun v : CmdWord => v[i]) hz
    simp only [BitVec.getElem_and, BitVec.getElem_or] at h1 h2 ⊢
    cases hw : w[i] <;> cases hz : zeros[i] <;> cases ht : top[i] <;> simp_all
  · have h1 := congrArg (fun v : CmdWord => v[i]) h
    simp only [BitVec.getElem_and, BitVec.getElem_or] at h1 ⊢
    cases hw : w[i] <;> cases hz : zeros[i] <;> cases ht : top[i] <;> simp_all

/-! ### The fields of an encoded word, by the shape of its operands (R70, R72) -/

theorem opField_oneByte (op b : Byte) :
    opField (op ++ b ++ 0#48) = op := by
  show (op ++ b ++ 0#48 : BitVec (8 + 8 + 48)).extractLsb' 56 8 = op
  simp (disch := omega) only [extractLsb'_append_high]
  simp

theorem b0Field_oneByte (op b : Byte) :
    b0Field (op ++ b ++ 0#48) = b := by
  show (op ++ b ++ 0#48 : BitVec (8 + 8 + 48)).extractLsb' 48 8 = b
  simp (disch := omega) only [extractLsb'_append_high, extractLsb'_append_low]
  simp

theorem opField_sixBytes (op f0 f1 f2 f3 f4 f5 : Byte) :
    opField (op ++ f0 ++ f1 ++ f2 ++ f3 ++ f4 ++ f5 ++ 0#8) = op := by
  show (op ++ f0 ++ f1 ++ f2 ++ f3 ++ f4 ++ f5 ++ 0#8 : BitVec (8 + 8 + 8 + 8 + 8 + 8 + 8 + 8)).extractLsb' 56 8 = op
  simp (disch := omega) only [extractLsb'_append_high]
  simp

theorem b0Field_sixBytes (op f0 f1 f2 f3 f4 f5 : Byte) :
    b0Field (op ++ f0 ++ f1 ++ f2 ++ f3 ++ f4 ++ f5 ++ 0#8) = f0 := by
  show (op ++ f0 ++ f1 ++ f2 ++ f3 ++ f4 ++ f5 ++ 0#8 : BitVec (8 + 8 + 8 + 8 + 8 + 8 + 8 + 8)).extractLsb' 48 8 = f0
  simp (disch := omega) only [extractLsb'_append_high, extractLsb'_append_low]
  simp

theorem b1Field_sixBytes (op f0 f1 f2 f3 f4 f5 : Byte) :
    b1Field (op ++ f0 ++ f1 ++ f2 ++ f3 ++ f4 ++ f5 ++ 0#8) = f1 := by
  show (op ++ f0 ++ f1 ++ f2 ++ f3 ++ f4 ++ f5 ++ 0#8 : BitVec (8 + 8 + 8 + 8 + 8 + 8 + 8 + 8)).extractLsb' 40 8 = f1
  simp (disch := omega) only [extractLsb'_append_high, extractLsb'_append_low]
  simp

theorem b2Field_sixBytes (op f0 f1 f2 f3 f4 f5 : Byte) :
    b2Field (op ++ f0 ++ f1 ++ f2 ++ f3 ++ f4 ++ f5 ++ 0#8) = f2 := by
  show (op ++ f0 ++ f1 ++ f2 ++ f3 ++ f4 ++ f5 ++ 0#8 : BitVec (8 + 8 + 8 + 8 + 8 + 8 + 8 + 8)).extractLsb' 32 8 = f2
  simp (disch := omega) only [extractLsb'_append_high, extractLsb'_append_low]
  simp

theorem b3Field_sixBytes (op f0 f1 f2 f3 f4 f5 : Byte) :
    b3Field (op ++ f0 ++ f1 ++ f2 ++ f3 ++ f4 ++ f5 ++ 0#8) = f3 := by
  show (op ++ f0 ++ f1 ++ f2 ++ f3 ++ f4 ++ f5 ++ 0#8 : BitVec (8 + 8 + 8 + 8 + 8 + 8 + 8 + 8)).extractLsb' 24 8 = f3
  simp (disch := omega) only [extractLsb'_append_high, extractLsb'_append_low]
  simp

theorem b4Field_sixBytes (op f0 f1 f2 f3 f4 f5 : Byte) :
    b4Field (op ++ f0 ++ f1 ++ f2 ++ f3 ++ f4 ++ f5 ++ 0#8) = f4 := by
  show (op ++ f0 ++ f1 ++ f2 ++ f3 ++ f4 ++ f5 ++ 0#8 : BitVec (8 + 8 + 8 + 8 + 8 + 8 + 8 + 8)).extractLsb' 16 8 = f4
  simp (disch := omega) only [extractLsb'_append_high, extractLsb'_append_low]
  simp

theorem b5Field_sixBytes (op f0 f1 f2 f3 f4 f5 : Byte) :
    b5Field (op ++ f0 ++ f1 ++ f2 ++ f3 ++ f4 ++ f5 ++ 0#8) = f5 := by
  show (op ++ f0 ++ f1 ++ f2 ++ f3 ++ f4 ++ f5 ++ 0#8 : BitVec (8 + 8 + 8 + 8 + 8 + 8 + 8 + 8)).extractLsb' 8 8 = f5
  simp (disch := omega) only [extractLsb'_append_high, extractLsb'_append_low]
  simp

theorem opField_frame (op idx : Byte) (enc stp : Half) :
    opField (op ++ idx ++ enc ++ stp ++ 0#16) = op := by
  show (op ++ idx ++ enc ++ stp ++ 0#16 : BitVec (8 + 8 + 16 + 16 + 16)).extractLsb' 56 8 = op
  simp (disch := omega) only [extractLsb'_append_high]
  simp

theorem b0Field_frame (op idx : Byte) (enc stp : Half) :
    b0Field (op ++ idx ++ enc ++ stp ++ 0#16) = idx := by
  show (op ++ idx ++ enc ++ stp ++ 0#16 : BitVec (8 + 8 + 16 + 16 + 16)).extractLsb' 48 8 = idx
  simp (disch := omega) only [extractLsb'_append_high, extractLsb'_append_low]
  simp

theorem h1Field_frame (op idx : Byte) (enc stp : Half) :
    h1Field (op ++ idx ++ enc ++ stp ++ 0#16) = enc := by
  show (op ++ idx ++ enc ++ stp ++ 0#16 : BitVec (8 + 8 + 16 + 16 + 16)).extractLsb' 32 16 = enc
  simp (disch := omega) only [extractLsb'_append_high, extractLsb'_append_low]
  simp

theorem h2Field_frame (op idx : Byte) (enc stp : Half) :
    h2Field (op ++ idx ++ enc ++ stp ++ 0#16) = stp := by
  show (op ++ idx ++ enc ++ stp ++ 0#16 : BitVec (8 + 8 + 16 + 16 + 16)).extractLsb' 16 16 = stp
  simp (disch := omega) only [extractLsb'_append_high, extractLsb'_append_low]
  simp

/-- The opcode of an encoded command. -/
theorem opField_encode (i : Instr) : opField (encode i) = opcodeOf i := by
  cases i with
  | nop => decide
  | crcInit => decide
  | crcStep b => exact opField_oneByte 0x02 b
  | tblRead i => exact opField_oneByte 0x03 i
  | frmPush b => exact opField_oneByte 0x04 b
  | frmLoad f0 f1 f2 f3 f4 f5 => exact opField_sixBytes 0x05 f0 f1 f2 f3 f4 f5
  | frmDecode => decide
  | frmClear => decide
  | frmEncode idx enc stp => exact opField_frame 0x08 idx enc stp
  | rdReg r => exact opField_oneByte 0x09 r

/-! ### The must-be-zero fields of an encoded word (R74) -/

theorem and_mask_oneByte (op b : Byte) :
    (op ++ b ++ 0#48 : CmdWord) &&& 0xFF00FFFFFFFFFFFF = op ++ 0#56 := by
  have tail : (op ++ 0#8 ++ 0#48 : CmdWord) = op ++ 0#56 := by revert op; decide +kernel
  have ones : (0xFF#8) = BitVec.allOnes 8 := by decide
  rw [← tail]
  show (op ++ b ++ 0#48 : BitVec (8 + 8 + 48)) &&& (0xFF#8 ++ 0#8 ++ 0xFFFFFFFFFFFF#48) = _
  simp only [BitVec.and_append, ones, BitVec.and_allOnes, BitVec.and_zero, BitVec.zero_and]

theorem and_mask_sixBytes (op f0 f1 f2 f3 f4 f5 : Byte) :
    (op ++ f0 ++ f1 ++ f2 ++ f3 ++ f4 ++ f5 ++ 0#8 : CmdWord) &&& 0xFF000000000000FF =
      op ++ 0#56 := by
  have tail : (op ++ 0#8 ++ 0#8 ++ 0#8 ++ 0#8 ++ 0#8 ++ 0#8 ++ 0#8 : CmdWord) = op ++ 0#56 := by
    revert op; decide +kernel
  have ones : (0xFF#8) = BitVec.allOnes 8 := by decide
  rw [← tail]
  show (op ++ f0 ++ f1 ++ f2 ++ f3 ++ f4 ++ f5 ++ 0#8 : BitVec (8 + 8 + 8 + 8 + 8 + 8 + 8 + 8)) &&&
    (0xFF#8 ++ 0#8 ++ 0#8 ++ 0#8 ++ 0#8 ++ 0#8 ++ 0#8 ++ 0xFF#8) = _
  simp only [BitVec.and_append, ones, BitVec.and_allOnes, BitVec.and_zero]

theorem and_mask_frame (op idx : Byte) (enc stp : Half) :
    (op ++ idx ++ enc ++ stp ++ 0#16 : CmdWord) &&& 0xFF0000000000FFFF = op ++ 0#56 := by
  have tail : (op ++ 0#8 ++ 0#16 ++ 0#16 ++ 0#16 : CmdWord) = op ++ 0#56 := by
    revert op; decide +kernel
  have ones : (0xFF#8) = BitVec.allOnes 8 := by decide
  rw [← tail]
  show (op ++ idx ++ enc ++ stp ++ 0#16 : BitVec (8 + 8 + 16 + 16 + 16)) &&&
    (0xFF#8 ++ 0#8 ++ 0#16 ++ 0#16 ++ 0xFFFF#16) = _
  simp only [BitVec.and_append, ones, BitVec.and_allOnes, BitVec.and_zero, BitVec.zero_and]

end Sys2Proof
end

