-- ==== Sys2Proof/Laws/State.lean ====
section
/-!
SUPPORT. One lemma per field per update of the state and of the engine, so that no proof unfolds a
record update.
-/

namespace Sys2Proof.Machine

/-! ### setAcc -/

@[simp] theorem Engine.setAcc_acc (e : Engine) (v : Byte) : (e.setAcc v).acc = v := rfl
@[simp] theorem Engine.setAcc_fbuf (e : Engine) (v : Byte) : (e.setAcc v).fbuf = e.fbuf := rfl
@[simp] theorem Engine.setAcc_fcount (e : Engine) (v : Byte) : (e.setAcc v).fcount = e.fcount := rfl
@[simp] theorem Engine.setAcc_fovf (e : Engine) (v : Byte) : (e.setAcc v).fovf = e.fovf := rfl
@[simp] theorem Engine.setAcc_fstat (e : Engine) (v : Byte) : (e.setAcc v).fstat = e.fstat := rfl
@[simp] theorem Engine.setAcc_resIndex (e : Engine) (v : Byte) :
    (e.setAcc v).resIndex = e.resIndex := rfl
@[simp] theorem Engine.setAcc_resEnc (e : Engine) (v : Byte) : (e.setAcc v).resEnc = e.resEnc := rfl
@[simp] theorem Engine.setAcc_resStp (e : Engine) (v : Byte) : (e.setAcc v).resStp = e.resStp := rfl
@[simp] theorem Engine.setAcc_resCrcCalc (e : Engine) (v : Byte) :
    (e.setAcc v).resCrcCalc = e.resCrcCalc := rfl
@[simp] theorem Engine.setAcc_resCrcRecv (e : Engine) (v : Byte) :
    (e.setAcc v).resCrcRecv = e.resCrcRecv := rfl
@[simp] theorem Engine.setAcc_table (e : Engine) (v : Byte) : (e.setAcc v).table = e.table := rfl

/-! ### fillBuffer -/

@[simp] theorem Engine.fillBuffer_acc (e : Engine) (f : Vector Byte 6) :
    (e.fillBuffer f).acc = e.acc := rfl
@[simp] theorem Engine.fillBuffer_fbuf (e : Engine) (f : Vector Byte 6) :
    (e.fillBuffer f).fbuf = f := rfl
@[simp] theorem Engine.fillBuffer_fcount (e : Engine) (f : Vector Byte 6) :
    (e.fillBuffer f).fcount = 6 := rfl
@[simp] theorem Engine.fillBuffer_fovf (e : Engine) (f : Vector Byte 6) :
    (e.fillBuffer f).fovf = false := rfl
@[simp] theorem Engine.fillBuffer_fstat (e : Engine) (f : Vector Byte 6) :
    (e.fillBuffer f).fstat = e.fstat := rfl
@[simp] theorem Engine.fillBuffer_resIndex (e : Engine) (f : Vector Byte 6) :
    (e.fillBuffer f).resIndex = e.resIndex := rfl
@[simp] theorem Engine.fillBuffer_resEnc (e : Engine) (f : Vector Byte 6) :
    (e.fillBuffer f).resEnc = e.resEnc := rfl
@[simp] theorem Engine.fillBuffer_resStp (e : Engine) (f : Vector Byte 6) :
    (e.fillBuffer f).resStp = e.resStp := rfl
@[simp] theorem Engine.fillBuffer_resCrcCalc (e : Engine) (f : Vector Byte 6) :
    (e.fillBuffer f).resCrcCalc = e.resCrcCalc := rfl
@[simp] theorem Engine.fillBuffer_resCrcRecv (e : Engine) (f : Vector Byte 6) :
    (e.fillBuffer f).resCrcRecv = e.resCrcRecv := rfl
@[simp] theorem Engine.fillBuffer_table (e : Engine) (f : Vector Byte 6) :
    (e.fillBuffer f).table = e.table := rfl

/-! ### emptyBuffer -/

@[simp] theorem Engine.emptyBuffer_acc (e : Engine) : (e.emptyBuffer).acc = e.acc := rfl
@[simp] theorem Engine.emptyBuffer_fbuf (e : Engine) : (e.emptyBuffer).fbuf = e.fbuf := rfl
@[simp] theorem Engine.emptyBuffer_fcount (e : Engine) : (e.emptyBuffer).fcount = 0 := rfl
@[simp] theorem Engine.emptyBuffer_fovf (e : Engine) : (e.emptyBuffer).fovf = false := rfl
@[simp] theorem Engine.emptyBuffer_fstat (e : Engine) : (e.emptyBuffer).fstat = e.fstat := rfl
@[simp] theorem Engine.emptyBuffer_resIndex (e : Engine) :
    (e.emptyBuffer).resIndex = e.resIndex := rfl
@[simp] theorem Engine.emptyBuffer_resEnc (e : Engine) : (e.emptyBuffer).resEnc = e.resEnc := rfl
@[simp] theorem Engine.emptyBuffer_resStp (e : Engine) : (e.emptyBuffer).resStp = e.resStp := rfl
@[simp] theorem Engine.emptyBuffer_resCrcCalc (e : Engine) :
    (e.emptyBuffer).resCrcCalc = e.resCrcCalc := rfl
@[simp] theorem Engine.emptyBuffer_resCrcRecv (e : Engine) :
    (e.emptyBuffer).resCrcRecv = e.resCrcRecv := rfl
@[simp] theorem Engine.emptyBuffer_table (e : Engine) : (e.emptyBuffer).table = e.table := rfl

/-! ### setFstat -/

@[simp] theorem Engine.setFstat_acc (e : Engine) (f : BitVec 5) : (e.setFstat f).acc = e.acc := rfl
@[simp] theorem Engine.setFstat_fbuf (e : Engine) (f : BitVec 5) :
    (e.setFstat f).fbuf = e.fbuf := rfl
@[simp] theorem Engine.setFstat_fcount (e : Engine) (f : BitVec 5) :
    (e.setFstat f).fcount = e.fcount := rfl
@[simp] theorem Engine.setFstat_fovf (e : Engine) (f : BitVec 5) :
    (e.setFstat f).fovf = e.fovf := rfl
@[simp] theorem Engine.setFstat_fstat (e : Engine) (f : BitVec 5) : (e.setFstat f).fstat = f := rfl
@[simp] theorem Engine.setFstat_resIndex (e : Engine) (f : BitVec 5) :
    (e.setFstat f).resIndex = e.resIndex := rfl
@[simp] theorem Engine.setFstat_resEnc (e : Engine) (f : BitVec 5) :
    (e.setFstat f).resEnc = e.resEnc := rfl
@[simp] theorem Engine.setFstat_resStp (e : Engine) (f : BitVec 5) :
    (e.setFstat f).resStp = e.resStp := rfl
@[simp] theorem Engine.setFstat_resCrcCalc (e : Engine) (f : BitVec 5) :
    (e.setFstat f).resCrcCalc = e.resCrcCalc := rfl
@[simp] theorem Engine.setFstat_resCrcRecv (e : Engine) (f : BitVec 5) :
    (e.setFstat f).resCrcRecv = e.resCrcRecv := rfl
@[simp] theorem Engine.setFstat_table (e : Engine) (f : BitVec 5) :
    (e.setFstat f).table = e.table := rfl

/-! ### extractFrame -/

@[simp] theorem Engine.extractFrame_acc (e : Engine) : (e.extractFrame).acc = e.acc := rfl
@[simp] theorem Engine.extractFrame_fbuf (e : Engine) : (e.extractFrame).fbuf = e.fbuf := rfl
@[simp] theorem Engine.extractFrame_fcount (e : Engine) : (e.extractFrame).fcount = e.fcount := rfl
@[simp] theorem Engine.extractFrame_fovf (e : Engine) : (e.extractFrame).fovf = e.fovf := rfl
@[simp] theorem Engine.extractFrame_fstat (e : Engine) : (e.extractFrame).fstat = e.fstat := rfl
@[simp] theorem Engine.extractFrame_resIndex (e : Engine) :
    (e.extractFrame).resIndex = frameIndex e.fbuf := rfl
@[simp] theorem Engine.extractFrame_resEnc (e : Engine) :
    (e.extractFrame).resEnc = frameEncoder e.fbuf := rfl
@[simp] theorem Engine.extractFrame_resStp (e : Engine) :
    (e.extractFrame).resStp = frameStepper e.fbuf := rfl
@[simp] theorem Engine.extractFrame_resCrcCalc (e : Engine) :
    (e.extractFrame).resCrcCalc = frameCrcCalc e.table e.fbuf := rfl
@[simp] theorem Engine.extractFrame_resCrcRecv (e : Engine) :
    (e.extractFrame).resCrcRecv = frameCrcRecv e.fbuf := rfl
@[simp] theorem Engine.extractFrame_table (e : Engine) : (e.extractFrame).table = e.table := rfl

/-! ### pushByte: the fields it never writes -/

@[simp] theorem Engine.pushByte_acc (e : Engine) (b : Byte) : (e.pushByte b).acc = e.acc := by
  unfold Engine.pushByte; split <;> rfl
@[simp] theorem Engine.pushByte_fstat (e : Engine) (b : Byte) : (e.pushByte b).fstat = e.fstat := by
  unfold Engine.pushByte; split <;> rfl
@[simp] theorem Engine.pushByte_resIndex (e : Engine) (b : Byte) :
    (e.pushByte b).resIndex = e.resIndex := by
  unfold Engine.pushByte; split <;> rfl
@[simp] theorem Engine.pushByte_resEnc (e : Engine) (b : Byte) :
    (e.pushByte b).resEnc = e.resEnc := by
  unfold Engine.pushByte; split <;> rfl
@[simp] theorem Engine.pushByte_resStp (e : Engine) (b : Byte) :
    (e.pushByte b).resStp = e.resStp := by
  unfold Engine.pushByte; split <;> rfl
@[simp] theorem Engine.pushByte_resCrcCalc (e : Engine) (b : Byte) :
    (e.pushByte b).resCrcCalc = e.resCrcCalc := by
  unfold Engine.pushByte; split <;> rfl
@[simp] theorem Engine.pushByte_resCrcRecv (e : Engine) (b : Byte) :
    (e.pushByte b).resCrcRecv = e.resCrcRecv := by
  unfold Engine.pushByte; split <;> rfl
@[simp] theorem Engine.pushByte_table (e : Engine) (b : Byte) : (e.pushByte b).table = e.table := by
  unfold Engine.pushByte; split <;> rfl

/-! ### reset -/

@[simp] theorem Engine.reset_acc (p : Params) : (Engine.reset p).acc = 0x00 := rfl
@[simp] theorem Engine.reset_fbuf (p : Params) :
    (Engine.reset p).fbuf = #v[0x00, 0x00, 0x00, 0x00, 0x00, 0x00] := rfl
@[simp] theorem Engine.reset_fcount (p : Params) : (Engine.reset p).fcount = 0 := rfl
@[simp] theorem Engine.reset_fovf (p : Params) : (Engine.reset p).fovf = false := rfl
@[simp] theorem Engine.reset_fstat (p : Params) : (Engine.reset p).fstat = 0 := rfl
@[simp] theorem Engine.reset_resIndex (p : Params) : (Engine.reset p).resIndex = 0x00 := rfl
@[simp] theorem Engine.reset_resEnc (p : Params) : (Engine.reset p).resEnc = 0x0000 := rfl
@[simp] theorem Engine.reset_resStp (p : Params) : (Engine.reset p).resStp = 0x0000 := rfl
@[simp] theorem Engine.reset_resCrcCalc (p : Params) : (Engine.reset p).resCrcCalc = 0x00 := rfl
@[simp] theorem Engine.reset_resCrcRecv (p : Params) : (Engine.reset p).resCrcRecv = 0x00 := rfl
@[simp] theorem Engine.reset_table (p : Params) : (Engine.reset p).table = buildTable p.poly := rfl

@[simp] theorem State.reset_engine : State.reset.engine = Engine.reset Config.params := rfl
@[simp] theorem State.reset_input : State.reset.input = [] := rfl
@[simp] theorem State.reset_responses : State.reset.responses = [] := rfl

@[simp] theorem State.hostReset_engine (s : State) :
    s.hostReset.engine = Engine.reset Config.params := rfl
@[simp] theorem State.hostReset_input (s : State) : s.hostReset.input = s.input := rfl
@[simp] theorem State.hostReset_responses (s : State) : s.hostReset.responses = s.responses := rfl

end Sys2Proof.Machine
end

