-- ==== Sys2Proof/Laws/Ops.lean ====
section
/-!
SUPPORT. One spec lemma per shared operation: the table and the fold, the response word, the frame
buffer, the register view, and what the commands with several outcomes can do.
-/

namespace Sys2Proof.Machine

/-! ### The table and the fold (R100, R102) -/

@[simp] theorem lookup_buildTable (poly i : Byte) :
    lookup (buildTable poly) i = tableEntry poly i := by
  simp [lookup, buildTable]

@[simp] theorem crc8_nil (table : Vector Byte 256) : crc8 table [] = 0x00 := rfl

/-- The fold over the table of `poly`, without the table. -/
theorem crc8_buildTable (poly : Byte) (s : List Byte) :
    crc8 (buildTable poly) s = s.foldl (fun acc x => tableEntry poly (x ^^^ acc)) 0x00 := by
  simp [crc8]

/-- One more byte is one more iteration of the loop of R102. -/
theorem crc8_append_singleton (table : Vector Byte 256) (s : List Byte) (x : Byte) :
    crc8 table (s ++ [x]) = lookup table (x ^^^ crc8 table s) := by
  simp [crc8]

/-! ### The response word (R73) -/

@[simp] theorem rspSt_rspWord (st : Status) (op : Byte) (d : Half) :
    rspSt (rspWord st op d) = st.code := by
  show (st.code ++ op ++ d : BitVec (8 + 8 + 16)).extractLsb' 24 8 = _
  simp (disch := omega) only [extractLsb'_append_high]
  simp

@[simp] theorem rspOpe_rspWord (st : Status) (op : Byte) (d : Half) :
    rspOpe (rspWord st op d) = op := by
  show (st.code ++ op ++ d : BitVec (8 + 8 + 16)).extractLsb' 16 8 = _
  simp (disch := omega) only [extractLsb'_append_high, extractLsb'_append_low]
  simp

@[simp] theorem rspData_rspWord (st : Status) (op : Byte) (d : Half) :
    rspData (rspWord st op d) = d := by
  show (st.code ++ op ++ d : BitVec (8 + 8 + 16)).extractLsb' 0 16 = _
  simp (disch := omega) only [extractLsb'_append_low]
  simp

/-- No two statuses share a code (R200). -/
theorem code_injective (a b : Status) (h : a.code = b.code) : a = b := by
  cases a <;> cases b <;> first | rfl | (exact absurd h (by decide))

/-! ### Completion -/

/-- A command that completes answers a next state, and this one only. -/
theorem complete_eq_next_iff (s t : State) (r : Engine × RspWord) :
    s.complete r = .next t ↔
      t = { s with engine := r.1, responses := s.responses ++ [r.2] } := by
  simp [State.complete, eq_comm]

/-! ### The frame buffer -/

theorem pushByte_of_lt (e : Engine) (b : Byte) (h : e.fcount.toNat < 6) :
    e.pushByte b =
      { e with fbuf := e.fbuf.set e.fcount.toNat b h, fcount := e.fcount + 1 } := by
  simp [Engine.pushByte, h]

theorem pushByte_of_full (e : Engine) (b : Byte) (h : ¬ e.fcount.toNat < 6) :
    e.pushByte b = { e with fovf := true } := by
  simp [Engine.pushByte, h]

/-- The sentinel detector, byte by byte (R134). -/
theorem isBreak_iff (p : Params) (f : Vector Byte 6) :
    isBreak p f = true ↔ ∀ k (h : k < 6), f[k] = p.breakByte := by
  simp only [isBreak, List.all_eq_true, beq_iff_eq]
  constructor
  · intro hall k h
    exact hall _ (by simp [Vector.mem_toList_iff])
  · intro hk b hb
    obtain ⟨k, h, rfl⟩ := Vector.getElem_of_mem (Vector.mem_toList_iff.mp hb)
    exact hk k h

/-! ### The register view (R30, R50) -/

/-- The defined register numbers are `0x00` to `0x0F`. -/
theorem regView_isSome (p : Params) (e : Engine) (r : Byte) :
    (regView p e r).isSome = decide (r.toNat < 0x10) := by
  unfold regView
  split <;> simp_all
  omega

/-! ### What a command with several outcomes can do -/

/-- FRM.PUSH appends, or drops the byte and records the overflow (R136). -/
theorem frmPush_cases (b : Byte) (e : Engine) :
    (∃ h : e.fcount.toNat < 6, frmPush b e =
      ({ e with fbuf := e.fbuf.set e.fcount.toNat b h, fcount := e.fcount + 1 },
        rspWord .ok 0x04 (zext16 (fcntView e.fovf (e.fcount + 1))))) ∨
    (¬ e.fcount.toNat < 6 ∧ frmPush b e =
      ({ e with fovf := true }, rspWord .bufOverflow 0x04 (zext16 (fcntView true e.fcount)))) := by
  by_cases h : e.fcount.toNat < 6
  · exact .inl ⟨h, by simp [frmPush, respond, Engine.bufferFull, pushByte_of_lt, h, Engine.fcntData]⟩
  · exact .inr ⟨h, by simp [frmPush, respond, Engine.bufferFull, pushByte_of_full, h, Engine.fcntData]⟩

/-- FRM.DECODE takes one of the four paths of R138, guards included. -/
theorem frmDecode_cases (p : Params) (e : Engine) :
    (e.wrongLength = true ∧ frmDecode p e =
      (e.emptyBuffer.setFstat fstatLength, rspWord .formatError 0x06 0x0011)) ∨
    (e.wrongLength = false ∧ isBreak p e.fbuf = true ∧ frmDecode p e =
      (e.emptyBuffer.setFstat fstatSentinel, rspWord .breakSeen 0x06 0x0009)) ∨
    (e.wrongLength = false ∧ isBreak p e.fbuf = false ∧ frameValid e.table e.fbuf = true ∧
      frmDecode p e = (e.extractFrame.emptyBuffer.setFstat fstatValid, rspWord .ok 0x06 0x0007)) ∨
    (e.wrongLength = false ∧ isBreak p e.fbuf = false ∧ frameValid e.table e.fbuf = false ∧
      frmDecode p e =
        (e.extractFrame.emptyBuffer.setFstat fstatMismatch, rspWord .checksumMismatch 0x06 0x0003)) := by
  unfold frmDecode
  cases hl : e.wrongLength <;> cases hb : isBreak p e.fbuf <;>
    cases hv : frameValid e.table e.fbuf <;>
    simp [respond, Engine.fstatData] <;> decide

/-- RD.REG answers with a register of the view, or raises BAD_REGNUM; it writes nothing (R171). -/
theorem rdReg_cases (p : Params) (r : Byte) (e : Engine) :
    (∃ d, regView p e r = some d ∧ rdReg p r e = (e, rspWord .ok 0x09 d)) ∨
    (0x10 ≤ r.toNat ∧ rdReg p r e = (e, rspWord .badRegnum 0x09 0x0000)) := by
  cases hv : regView p e r with
  | some d => exact .inl ⟨d, rfl, by simp [rdReg, hv, respond]⟩
  | none =>
    have := regView_isSome p e r
    exact .inr ⟨by simpa [hv] using this.symm, by simp [rdReg, hv, raise]⟩

end Sys2Proof.Machine
end

