-- ==== Sys2Proof/Laws/PerInstr.lean ====
section
/-!
SUPPORT. Facts about every instruction as syntax, one lemma per constructor.
-/

namespace Sys2Proof.Laws.EncodeFitsRow

/-- The encoded word matches the row of the instruction's opcode: its must-be-zero fields are zero
(R74, "Reserved fields are always assembled as zero", R79). -/
def Statement (i : Instr) : Prop :=
  ∃ row, opRow (opcodeOf i) = some row ∧ encode i &&& row.mask = row.pattern

theorem nop : Statement .nop := ⟨_, rfl, by decide⟩

theorem crcInit : Statement .crcInit := ⟨_, rfl, by decide⟩

theorem crcStep (b : Byte) : Statement (.crcStep b) := ⟨_, rfl, and_mask_oneByte 0x02 b⟩

theorem tblRead (i : Byte) : Statement (.tblRead i) := ⟨_, rfl, and_mask_oneByte 0x03 i⟩

theorem frmPush (b : Byte) : Statement (.frmPush b) := ⟨_, rfl, and_mask_oneByte 0x04 b⟩

theorem frmLoad (f0 f1 f2 f3 f4 f5 : Byte) : Statement (.frmLoad f0 f1 f2 f3 f4 f5) :=
  ⟨_, rfl, and_mask_sixBytes 0x05 f0 f1 f2 f3 f4 f5⟩

theorem frmDecode : Statement .frmDecode := ⟨_, rfl, by decide⟩

theorem frmClear : Statement .frmClear := ⟨_, rfl, by decide⟩

theorem frmEncode (idx : Byte) (enc stp : Half) : Statement (.frmEncode idx enc stp) :=
  ⟨_, rfl, and_mask_frame 0x08 idx enc stp⟩

theorem rdReg (r : Byte) : Statement (.rdReg r) := ⟨_, rfl, and_mask_oneByte 0x09 r⟩

end Sys2Proof.Laws.EncodeFitsRow
end

