-- ==== Sys2Proof/Laws/Step.lean ====
section
/-!
SUPPORT. What `exec`, an accepted command word and a step can do, each said once.
-/

namespace Sys2Proof.Machine

/-- Every arm of `exec` completes: the command's effect on the engine, and its response. -/
theorem exec_eq_complete (i : Instr) (s : State) :
    exec i s = s.complete (command Config.params i s.engine) := by
  cases i <;> rfl

/-- An accepted word completes with the effect and the response of R5's step relation. -/
theorem acceptCommand_eq_complete (w : CmdWord) (s : State) :
    acceptCommand w s = s.complete (cmdStep Config.params s.engine w) := by
  unfold acceptCommand cmdStep
  cases decode w <;> simp only [exec_eq_complete]

/-- A legal engine meets the host's next move. -/
theorem step_of_move (s : State) (m : HostMove) (rest : List HostMove)
    (hl : s.engine.legal = true) (hi : s.input = m :: rest) :
    step s = acceptMove m { s with input := rest } := by
  simp [step, hl, hi]

/-- What a step that answers a next state can have done. -/
theorem step_next_cases (s t : State) (h : step s = .next t) :
    s.engine.legal = true ∧
      ((s.input = [] ∧ t = s) ∨
        (∃ w rest, s.input = .command w :: rest ∧
          t = { engine := (cmdStep Config.params s.engine w).1, input := rest,
                responses := s.responses ++ [(cmdStep Config.params s.engine w).2] }) ∨
        (∃ m rest, s.input = m :: rest ∧ (m = .reset ∨ ∃ w, m = .abort w) ∧
          t = { engine := Engine.reset Config.params, input := rest, responses := s.responses })) := by
  cases hl : s.engine.legal with
  | false => simp [step, hl] at h
  | true =>
    refine ⟨rfl, ?_⟩
    cases hi : s.input with
    | nil => exact .inl ⟨rfl, by simpa [step, hl, hi, eq_comm] using h⟩
    | cons m rest =>
      rw [step_of_move s m rest hl hi] at h
      cases m with
      | command w =>
        refine .inr (.inl ⟨w, rest, rfl, ?_⟩)
        simpa [acceptMove, acceptCommand_eq_complete, complete_eq_next_iff] using h
      | reset =>
        exact .inr (.inr ⟨_, rest, rfl, .inl rfl, by
          simpa [acceptMove, State.hostReset, eq_comm] using h⟩)
      | abort w =>
        exact .inr (.inr ⟨_, rest, rfl, .inr ⟨w, rfl⟩, by
          simpa [acceptMove, State.hostReset, eq_comm] using h⟩)

/-! ### Runs -/

theorem core_run_zero (s : State) : Sys2Proof.core.run 0 s = .next s := rfl

/-- A run of one step more goes on from the state that step answers. -/
theorem core_run_succ (s t : State) (n : Nat) (h : step s = .next t) :
    Sys2Proof.core.run (n + 1) s = Sys2Proof.core.run n t := by
  have h' : Sys2Proof.core.step s = .next t := h
  simp [Host.Core.run, h']

end Sys2Proof.Machine
end

