-- ==== Sys2Proof/Tests/Slice0.lean ====
section
/-!
SUPPORT. The model's own tests, and a witness for every statement with hypotheses. Expected values are
those of spec/95_test_vectors.md (a section L1, L2 or P of it is named) or of the rule named, all of
them "derived from the rules of this spec, not from a run".
-/

open Sys2Proof Sys2Proof.Machine Sys2Proof.Claims

namespace Sys2Proof.Tests

/- One theorem at a time: checked all at once, the tests ask for more memory than the build may have. -/
set_option Elab.async false

/-! ### Helpers -/

/-- The instance of the vectors that assume `BREAK_BYTE = 0xAA`. -/
def pAA : Params := ⟨0x83, 0xAA⟩

/-- The engine after reset. -/
def e0 : Engine := Engine.reset Config.params

/-- A machine with this engine, and otherwise as after reset. -/
def stateOf (e : Engine) : State := { State.reset with engine := e }

/-- The engine with a full buffer. -/
def loaded (f : Vector Byte 6) : Engine := { e0 with fbuf := f, fcount := 6 }

/-- The good frame with index 0 and both deltas 10 (L2.4). -/
def goodFrame : Vector Byte 6 := #v[0x00, 0x00, 0x0A, 0x00, 0x0A, 0x44]

/-- The same with its checksum byte corrupted. -/
def badFrame : Vector Byte 6 := #v[0x00, 0x00, 0x0A, 0x00, 0x0A, 0x45]

/-- Six break bytes. -/
def breakFrame : Vector Byte 6 := Vector.replicate 6 Config.breakByte

/-- The buffer full and a push dropped. -/
def overflowed : Engine := { loaded goodFrame with fovf := true }

/-- The start state of L2.7. -/
def l27 : Engine :=
  { e0 with
    acc := 0x0A, fbuf := #v[0x05, 0x00, 0x0A, 0xFF, 0xF6, 0x65], fstat := 0x07, resIndex := 0x05,
    resEnc := 0x000A, resStp := 0xFFF6, resCrcCalc := 0x65, resCrcRecv := 0x65 }

/-- The response to a word, with `BREAK_BYTE = 0xAA`. -/
def reply (e : Engine) (w : CmdWord) : RspWord := (cmdStep pAA e w).2

/-- `FSTAT` and the result registers, as L2.4 writes them. -/
def results (e : Engine) : BitVec 5 × Byte × Half × Half × Byte × Byte :=
  (e.fstat, e.resIndex, e.resEnc, e.resStp, e.resCrcCalc, e.resCrcRecv)

/-! ### WellFormed: a smoke test for each check -/

theorem test_byte_range_low : fitsByte (-1) = false := by decide
theorem test_byte_range_high : fitsByte 256 = false := by decide
theorem test_half_range_low : fitsHalf (-32769) = false := by decide
theorem test_half_range_high : fitsHalf 65536 = false := by decide
theorem test_refuses_crcStep : (AsmCmd.crcStep 256).wellFormed = false := by decide
theorem test_refuses_tblRead : (AsmCmd.tblRead (-1)).wellFormed = false := by decide
theorem test_refuses_frmPush : (AsmCmd.frmPush 256).wellFormed = false := by decide
theorem test_refuses_frmLoad :
    ∀ c ∈ [AsmCmd.frmLoad 256 0 0 0 0 0, .frmLoad 0 256 0 0 0 0, .frmLoad 0 0 256 0 0 0,
      .frmLoad 0 0 0 256 0 0, .frmLoad 0 0 0 0 256 0, .frmLoad 0 0 0 0 0 256],
      c.wellFormed = false := by decide
theorem test_refuses_frmEncode :
    ∀ c ∈ [AsmCmd.frmEncode 256 0 0, .frmEncode 0 65536 0, .frmEncode 0 0 (-32769)],
      c.wellFormed = false := by decide
theorem test_refuses_rdReg : (AsmCmd.rdReg 256).wellFormed = false := by decide
theorem test_accepts_bounds :
    ∀ c ∈ [AsmCmd.frmEncode 255 (-32768) 65535, .frmLoad 0 255 0 255 0 255, .rdReg 255],
      c.wellFormed = true := by decide

/-! ### Decoding: words written out from R70, R72 and R74 -/

theorem test_decode_nop : decode 0x0000000000000000 = .instr .nop := by decide
theorem test_decode_crcInit : decode 0x0100000000000000 = .instr .crcInit := by decide
theorem test_decode_crcStep : decode 0x0234000000000000 = .instr (.crcStep 0x34) := by decide
theorem test_decode_tblRead : decode 0x03FF000000000000 = .instr (.tblRead 0xFF) := by decide
theorem test_decode_frmPush : decode 0x0499000000000000 = .instr (.frmPush 0x99) := by decide
theorem test_decode_frmLoad :
    decode 0x0501020304050600 = .instr (.frmLoad 0x01 0x02 0x03 0x04 0x05 0x06) := by decide
theorem test_decode_frmDecode : decode 0x0600000000000000 = .instr .frmDecode := by decide
theorem test_decode_frmClear : decode 0x0700000000000000 = .instr .frmClear := by decide
theorem test_decode_frmEncode :
    decode 0x087F80017FFE0000 = .instr (.frmEncode 0x7F 0x8001 0x7FFE) := by decide
theorem test_decode_rdReg : decode 0x090F000000000000 = .instr (.rdReg 0x0F) := by decide

/-- The opcode, then the payload byte, then zeros, bit by bit (R70: OP is bits 63:56, B0 bits 55:48). -/
theorem test_decode_crcStep_bits :
    decode (0b00000010#8 ++ 0b10010110#8 ++ 0#48) = .instr (.crcStep 0b10010110) := by decide

/-- No word matches two rows of R74. -/
theorem test_opcode_rows_disjoint :
    opcodeTable.Pairwise fun a b => a.mask &&& b.mask &&& (a.pattern ^^^ b.pattern) ≠ 0 := by decide +kernel

/-- The rows' opcodes are the top bytes of their patterns. -/
theorem test_opcode_rows_named :
    ∀ row ∈ opcodeTable, row.pattern.extractLsb' 56 8 = row.opcode ∧ row.mask.extractLsb' 56 8 = 0xFF := by
  decide +kernel

/-- The refused words of L2.8: illegal opcodes. -/
theorem test_decode_illegal :
    [0x0A00000000000000#64, 0x8000000000000000, 0xFFFFFFFFFFFFFFFF].map decode =
      List.replicate 3 .illegalOpcode := by decide +kernel

/-- The refused words of L2.8: reserved fields. -/
theorem test_decode_reserved :
    [0x0000000000000001#64, 0x0101000000000000, 0x0205000000000001, 0x0300010000000000,
      0x0405000000000100, 0x0501020304050607, 0x0601000000000000, 0x0700000000000080,
      0x0801020304050100, 0x0801020304050001, 0x0910010000000000, 0x0900000000000001].map decode =
      List.replicate 12 .reservedField := by decide +kernel

/-- Their responses, which are also R203's order: the third and the eighth meet two conditions. -/
theorem test_error_responses :
    [0x0A00000000000000#64, 0x8000000000000000, 0xFFFFFFFFFFFFFFFF, 0x0000000000000001,
      0x0205000000000001, 0x0501020304050607, 0x0700000000000080, 0x0910010000000000,
      0x0910000000000000].map (reply e0) =
    [0x010A0000, 0x01800000, 0x01FF0000, 0x02000000, 0x02020000, 0x02050000, 0x02070000, 0x02090000,
      0x03090000] := by decide +kernel

theorem test_tableWord : decodeTableWord 64 0x0805000AFFF60000 = some (.frmEncode 0x05 0x000A 0xFFF6) := by
  decide
theorem test_tableWord_refused : decodeTableWord 64 0x0A00000000000000 = none := by decide

/-- Most significant byte first (R54). -/
theorem test_wordBytes :
    wordBytes 0x0805000AFFF60000 = [0x08, 0x05, 0x00, 0x0A, 0xFF, 0xF6, 0x00, 0x00] := by decide
theorem test_rspBytes : rspBytes 0x05040086 = [0x05, 0x04, 0x00, 0x86] := by decide

/-! ### The assembler (R79, R80) -/

/-- The example words of L1.2, L2.7 and P1. -/
theorem test_assemble_line :
    assembleLine "FRM.ENCODE 5, 10, -10 ; a comment".toList = some [0x0805000AFFF60000] := by
  decide +kernel
theorem test_assemble_register :
    assembleLine "RD.REG BREAK".toList = some [0x090F000000000000] := by decide +kernel
theorem test_assemble_unsigned :
    assembleLine "FRM.ENCODE 255, 65535, 0xFFFF".toList = some [0x08FFFFFFFFFF0000] := by
  decide +kernel
theorem test_assemble_crcSeq :
    assembleLine "CRC.SEQ 0x05, 0".toList =
      some [0x0100000000000000, 0x0205000000000000, 0x0200000000000000] := by decide +kernel
theorem test_assemble_rdResult :
    assembleLine "RD.RESULT".toList =
      some [0x0902000000000000, 0x0903000000000000, 0x0904000000000000, 0x0905000000000000,
        0x0906000000000000, 0x0907000000000000] := by decide +kernel
theorem test_assemble_refuses_range : assembleLine "CRC.STEP 256".toList = none := by decide +kernel
theorem test_assemble_refuses_count : assembleLine "CRC.STEP".toList = none := by decide +kernel

/-! ### The table and the checksum (R100 to R105, L2.1) -/

theorem test_table_entries :
    [0x00#8, 0x01, 0x02, 0x03, 0x04, 0x05, 0x7F, 0x80, 0x81, 0xC5, 0xFE, 0xFF].map
        (lookup (buildTable 0x83)) =
      [0x00, 0x83, 0x85, 0x06, 0x89, 0x0A, 0x7F, 0x02, 0x81, 0x09, 0xFE, 0x7D] := by
  simp only [List.map, lookup_buildTable]; decide +kernel

/-- "123456789" (R104). -/
theorem test_check_value :
    crc8 (buildTable 0x83) [0x31, 0x32, 0x33, 0x34, 0x35, 0x36, 0x37, 0x38, 0x39] = 0x6B := by
  rw [crc8_buildTable]; decide +kernel

theorem test_crc_order : crc8 (buildTable 0x83) [0x01, 0x02] = 0x81 := by
  rw [crc8_buildTable]; decide +kernel

/-! ### One step of each command (L2.2 to L2.7) -/

theorem test_nop : reply l27 0x0000000000000000 = 0x00000000 := by decide +kernel
theorem test_crcInit : (crcInit { e0 with acc := 0x65 }).1.acc = 0x00 := by decide
theorem test_crcInit_response : reply { e0 with acc := 0x65 } 0x0100000000000000 = 0x00010000 := by
  decide +kernel
theorem test_crcStep : reply { e0 with acc := 0x12 } 0x0234000000000000 = 0x000200CD := by
  decide +kernel
theorem test_crcStep_same : (crcStep 0x5A { e0 with acc := 0x5A }).1.acc = 0x00 := by decide +kernel
theorem test_tblRead : reply e0 0x03FF000000000000 = 0x0003007D := by decide +kernel
theorem test_tblRead_keeps_acc : (tblRead 0x01 { e0 with acc := 0x65 }).1.acc = 0x65 := by decide

theorem test_frmPush_last :
    reply { loaded #v[0x00, 0x00, 0x0A, 0x00, 0x0A, 0x00] with fcount := 5 } 0x0444000000000000 =
      0x00040006 := by decide +kernel
theorem test_frmPush_overflow :
    ((frmPush 0x99 (loaded goodFrame)).1.fbuf, (frmPush 0x99 (loaded goodFrame)).2) =
      (goodFrame, 0x05040086) := by decide +kernel
theorem test_frmLoad :
    (frmLoad 0x01 0x02 0x03 0x04 0x05 0x06 overflowed).1.fbuf =
      #v[0x01, 0x02, 0x03, 0x04, 0x05, 0x06] := by decide
theorem test_frmLoad_response : reply overflowed 0x0501020304050600 = 0x00050006 := by decide +kernel
theorem test_frmDecode_good :
    results (frmDecode pAA (loaded #v[0x85, 0x02, 0x0A, 0x00, 0x0A, 0xE4])).1 =
      (0x07, 0x85, 0x020A, 0x000A, 0xE4, 0xE4) := by decide +kernel
theorem test_frmDecode_responses :
    [#v[0x05, 0x00, 0x0A, 0x00, 0x0A, 0x1B], #v[0xAA, 0xAA, 0xAA, 0xAA, 0xAA, 0xAA],
        #v[0xAA, 0xAA, 0xAA, 0xAA, 0xAA, 0xAB]].map (fun f => reply (loaded f) 0x0600000000000000) =
      [0x06060003, 0x07060009, 0x06060003] := by decide +kernel
theorem test_frmClear : reply overflowed 0x0700000000000000 = 0x00070000 := by decide +kernel
theorem test_frmClear_keeps_bytes :
    ((frmClear overflowed).1.fbuf, (frmClear overflowed).1.fcount, (frmClear overflowed).1.fovf) =
      (goodFrame, 0, false) := by decide
theorem test_frmEncode :
    ((frmEncode 0x05 0x000A 0xFFF6 e0).1.fbuf, (frmEncode 0x05 0x000A 0xFFF6 e0).2) =
      (#v[0x05, 0x00, 0x0A, 0xFF, 0xF6, 0x65], 0x00080065) := by decide +kernel
theorem test_frmEncode_index_bit7 : reply e0 0x08800001FFFE0000 = 0x000800AD := by decide +kernel

/-- The whole register view of L2.7, and the two reserved numbers. -/
theorem test_rdReg :
    [0x00#8, 0x01, 0x02, 0x03, 0x04, 0x05, 0x06, 0x07, 0x08, 0x09, 0x0A, 0x0B, 0x0C, 0x0D, 0x0E, 0x0F,
        0x10, 0xFF].map (fun r => (rdReg pAA r l27).2) =
      [0x0009000A, 0x00090000, 0x00090007, 0x00090005, 0x0009000A, 0x0009FFF6, 0x00090065, 0x00090065,
        0x00090005, 0x00090000, 0x0009000A, 0x000900FF, 0x000900F6, 0x00090065, 0x00090083, 0x000900AA,
        0x03090000, 0x03090000] := by decide +kernel
theorem test_rdReg_fcnt : (rdReg pAA 0x01 overflowed).2 = 0x00090086 := by decide +kernel

/-- The vectors' instance and the model's start from one reset state. -/
theorem test_reset_same : Engine.reset pAA = e0 := rfl

/-! ### The step -/

/-- The first step from reset runs the word that was put before it. -/
theorem test_withFetchWord (w : Nat) (i : Instr) (h : decode (tableWord 64 w) = .instr i) :
    step (State.reset.withFetchWord 64 w) = exec i State.reset := by
  rw [step_of_move _ (.command (tableWord 64 w)) []
    (show e0.legal = true by decide) rfl]
  simp only [acceptMove, acceptCommand, h]
  rfl

theorem test_step_push :
    step (State.reset.withFetchWord 64 0x0499000000000000) = .next (stateOf
      { e0 with fbuf := #v[0x99, 0x00, 0x00, 0x00, 0x00, 0x00], fcount := 1 } |> fun s =>
        { s with responses := [0x00040001] }) := rfl

theorem test_reset_mid_command (w : CmdWord) :
    step ((stateOf overflowed).withMoves [.abort w]) = .next State.reset := rfl

/-! ### Witnesses: states and operands that meet the statements' hypotheses -/

theorem witness_legal_reset : State.reset.engine.legal = true := by decide
theorem witness_legal_full : (stateOf (loaded goodFrame)).engine.legal = true := by decide
theorem witness_legal_overflowed : (stateOf overflowed).engine.legal = true := by decide

/-- The good frame is never the sentinel: its bytes are not all the same. -/
theorem good_not_break : ¬ holdsBreak (loaded goodFrame) := fun h =>
  absurd ((h 0 (by omega)).trans (h 2 (by omega)).symm) (by decide)

theorem bad_not_break : ¬ holdsBreak (loaded badFrame) := fun h =>
  absurd ((h 0 (by omega)).trans (h 2 (by omega)).symm) (by decide)

theorem good_crc : bufferCrc (loaded goodFrame) = (loaded goodFrame).fbuf[5] := by
  show crc8 (buildTable 0x83) _ = _
  rw [crc8_buildTable]; decide +kernel

theorem bad_crc : bufferCrc (loaded badFrame) ≠ (loaded badFrame).fbuf[5] := by
  show crc8 (buildTable 0x83) _ ≠ _
  rw [crc8_buildTable]; decide +kernel

theorem break_breaks : holdsBreak (loaded breakFrame) := fun k h => by
  show breakFrame[k] = _
  simp [breakFrame]

/-- EncodeOfDecodeIsTheWord. -/
theorem witness_EncodeOfDecode : decode 0x0234000000000000 = .instr (.crcStep 0x34) := by decide

/-- DecoderHasThreeOutcomes: opcode `0x0A` at its boundary, and for every legal opcode a word that
matches its row and a word that does not. -/
theorem witness_DecoderHasThreeOutcomes :
    0x0A ≤ ((0x0A00000000000000#64).extractLsb' 56 8).toNat ∧
    ([(0x00#8, 0x0000000000000000#64, 0x0000000000000001#64, 0xFFFFFFFFFFFFFFFF#64),
        (0x01, 0x0100000000000000, 0x0101000000000000, 0xFFFFFFFFFFFFFFFF),
        (0x02, 0x02FF000000000000, 0x0205000000000001, 0xFF00FFFFFFFFFFFF),
        (0x03, 0x03FF000000000000, 0x0300010000000000, 0xFF00FFFFFFFFFFFF),
        (0x04, 0x04FF000000000000, 0x0405000000000100, 0xFF00FFFFFFFFFFFF),
        (0x05, 0x05FFFFFFFFFFFF00, 0x0501020304050607, 0xFF000000000000FF),
        (0x06, 0x0600000000000000, 0x0601000000000000, 0xFFFFFFFFFFFFFFFF),
        (0x07, 0x0700000000000000, 0x0700000000000080, 0xFFFFFFFFFFFFFFFF),
        (0x08, 0x08FFFFFFFFFF0000, 0x0801020304050100, 0xFF0000000000FFFF),
        (0x09, 0x09FF000000000000, 0x0900000000000001, 0xFF00FFFFFFFFFFFF)].all
      fun (op, good, bad, mask) =>
        decide (good.extractLsb' 56 8 = op ∧ good &&& mask = op ++ 0#56 ∧
          bad.extractLsb' 56 8 = op ∧ bad &&& mask ≠ op ++ 0#56)) = true := by decide +kernel

/-- IllegalOpcodeIsAnsweredAndWritesNothing, at the lowest illegal opcode. -/
theorem witness_IllegalOpcode :
    State.reset.engine.legal = true ∧ 0x0A ≤ ((0x0A00000000000000#64).extractLsb' 56 8).toNat := by
  decide

/-- ReservedFieldIsAnsweredAndWritesNothing, at the highest legal opcode. -/
theorem witness_ReservedField :
    State.reset.engine.legal = true ∧ (0x09#8).toNat < 0x0A ∧
      (0x0900000000000001#64).extractLsb' 56 8 = 0x09 ∧
      0x0900000000000001#64 &&& mustBeZero 0x09 ≠ 0 := by decide

/-- ByteWidePathKeepsTheWord: the round trip, and the first and the last byte of both kinds of word. -/
theorem witness_ByteWidePath :
    wordOfBytes [0x08, 0x05, 0x00, 0x0A, 0xFF, 0xF6, 0x00, 0x01] = some 0x0805000AFFF60001 ∧
      (wordBytes 0x0805000AFFF60001)[0]? = some 0x08 ∧ (wordBytes 0x0805000AFFF60001)[7]? = some 0x01 ∧
      (rspBytes 0x05040086)[0]? = some 0x05 ∧ (rspBytes 0x05040086)[3]? = some 0x86 := by decide

/-- AssembledWordDecodesToTheCommand: each range at its ends and just outside them, and a command of each
operand shape, in range and out of it. -/
theorem witness_AssembledWord :
    (isU8 0 ∧ isU8 255 ∧ ¬ isU8 (-1) ∧ ¬ isU8 256) ∧
    (isHalf (-32768) ∧ isHalf 32767 ∧ isHalf 65535 ∧ ¬ isHalf (-32769) ∧ ¬ isHalf 65536) ∧
    assembleCmd (.crcStep 255) = some 0x02FF000000000000 ∧ assembleCmd (.crcStep 256) = none ∧
    assembleCmd (.frmLoad 1 2 3 4 5 255) = some 0x050102030405FF00 ∧
    assembleCmd (.frmLoad 1 2 3 4 5 (-1)) = none ∧
    assembleCmd (.frmEncode 127 (-32768) 65535) = some 0x087F8000FFFF0000 ∧
    assembleCmd (.frmEncode 127 (-32769) 65535) = none ∧
    (AsmCmd.crcStep 255).wellFormed = true ∧ (AsmCmd.crcStep 256).wellFormed = false := by decide

/-- StepRunsTheDecodedCommand. -/
theorem witness_StepRuns :
    (State.reset.withWords [0x0234000000000000]).engine.legal = true ∧
    (State.reset.withWords [0x0234000000000000]).input = [.command 0x0234000000000000] ∧
    decode 0x0234000000000000 = .instr (.crcStep 0x34) := by decide

/-- CommandErrorWritesNothing: one word for each of the three command errors. -/
theorem witness_CommandError :
    ∀ x ∈ [(0x0A00000000000000#64, 0x010A0000#32), (0x0000000000000001, 0x02000000),
        (0x0910000000000000, 0x03090000)],
      ∃ t, step (State.reset.withMoves [.command x.1]) = .next t ∧
        t.responses = State.reset.responses ++ [x.2] ∧
        (x.2.extractLsb' 24 8 = 0x01#8 ∨ x.2.extractLsb' 24 8 = 0x02#8 ∨
          x.2.extractLsb' 24 8 = 0x03#8) := by
  simp only [List.forall_mem_cons, List.not_mem_nil, false_implies, implies_true, and_true]
  exact ⟨⟨_, rfl, rfl, by decide⟩, ⟨_, rfl, rfl, by decide⟩, ⟨_, rfl, rfl, by decide⟩⟩

/-- OnlyTheNamedCommandsWriteARegister, and ResultsStayUntilTheNextExtraction for a command that is no
FRM.DECODE: every command has a next state, here NOP. -/
theorem witness_OnlyTheNamedCommands :
    (∃ t, exec .nop State.reset = .next t) ∧ opcodeOf .nop ∉ [0x04#8, 0x05#8, 0x06#8, 0x07#8, 0x08#8] ∧
      opcodeOf .nop ∉ [0x01#8, 0x02#8] := ⟨⟨_, rfl⟩, by decide, by decide⟩

/-- UnreachableStateFaults: a value of each kind, and the values beside them that are reachable. -/
theorem witness_UnreachableState :
    ({ e0 with fcount := 7 } : Engine).legal = false ∧
    ({ e0 with fcount := 5, fovf := true } : Engine).legal = false ∧
    ({ e0 with fstat := 0x01 } : Engine).legal = false ∧
    ({ e0 with fcount := 6, fovf := true, fstat := 0x11 } : Engine).legal = true := by decide

/-- TableIsAPermutation. -/
theorem witness_TableIsAPermutation : (0x83#8).getLsbD 0 = true := by decide

/-- CrcStepFoldsOneByte and TblReadAnswersTheEntry, the corner cases on the table of `0x83`. -/
theorem witness_table : State.reset.engine.table = buildTable 0x83 ∧ State.reset.engine.acc = 0x00 :=
  ⟨rfl, rfl⟩

/-- FieldExtractorIsBigEndianSigned and SignedPatternsRoundTrip, the two ends of the signed range. -/
theorem witness_signed : u16 (-32768) = 0x8000 ∧ u16 32767 = 0x7FFF := by decide

/-- FrmPushAppendsOrOverflows: the last push that fits, and the first that does not. -/
theorem witness_FrmPush :
    (stateOf { e0 with fcount := 5 }).engine.fcount.toNat < 6 ∧
    (stateOf { e0 with fcount := 5 }).engine.legal = true ∧
    (stateOf (loaded goodFrame)).engine.fcount = 6 ∧
    (stateOf (loaded goodFrame)).engine.legal = true := by decide

/-- FrmDecodeFollowsItsFourPaths: a length error by the count, and one by the overflow. -/
theorem witness_FrmDecode_length :
    (stateOf { e0 with fcount := 5 }).engine.fcount ≠ 6 ∧ (stateOf overflowed).engine.fovf = true := by
  decide

/-- The sentinel path. -/
theorem witness_FrmDecode_break :
    (loaded breakFrame).fcount = 6 ∧ (loaded breakFrame).fovf = false ∧ holdsBreak (loaded breakFrame) :=
  ⟨rfl, rfl, break_breaks⟩

/-- The extraction path, checksum valid; also ResultsInTheSourcesTerms. -/
theorem witness_FrmDecode_valid :
    (loaded goodFrame).fcount = 6 ∧ (loaded goodFrame).fovf = false ∧
      ¬ holdsBreak (loaded goodFrame) ∧ bufferCrc (loaded goodFrame) = (loaded goodFrame).fbuf[5] ∧
      ∃ t, exec .frmDecode (stateOf (loaded goodFrame)) = .next t :=
  ⟨rfl, rfl, good_not_break, good_crc, ⟨_, rfl⟩⟩

/-- The extraction path, checksum not valid. -/
theorem witness_FrmDecode_mismatch :
    (loaded badFrame).fcount = 6 ∧ (loaded badFrame).fovf = false ∧
      ¬ holdsBreak (loaded badFrame) ∧ bufferCrc (loaded badFrame) ≠ (loaded badFrame).fbuf[5] :=
  ⟨rfl, rfl, bad_not_break, bad_crc⟩

/-- FrmDecodeCornerCases: the two buffers it names. -/
theorem witness_FrmDecodeCornerCases :
    (∃ t, exec .frmDecode State.reset = .next t) ∧
    (∀ f, (loaded f).table = buildTable 0x83 ∧ (loaded f).fcount = 6 ∧ (loaded f).fovf = false ∧
      (loaded f).fbuf = f) := ⟨⟨_, rfl⟩, fun _ => ⟨rfl, rfl, rfl, rfl⟩⟩

/-- EncodeThenDecodeGivesTheFieldsBack: a constructed and a loaded frame that are not the sentinel, and
a constructed frame of six equal bytes. -/
theorem witness_EncodeThenDecode :
    State.reset.engine.legal = true ∧
    (¬ ∀ k, ∀ h : k < 6,
      (frameOf State.reset.engine.table 0x00 0x000A 0x000A)[k] = Config.breakByte) ∧
    (¬ ∀ x ∈ [0x00#8, 0x00, 0x0A, 0x00, 0x0A,
      crc8 State.reset.engine.table [0x00, 0x00, 0x0A, 0x00, 0x0A]], x = Config.breakByte) ∧
    (∀ k, ∀ h : k < 6, (frameOf (buildTable 0x83) 0x00 0x0000 0x0000)[k] = 0x00) := by
  refine ⟨by decide, fun h => ?_, fun h => ?_, by decide +kernel⟩
  · exact absurd ((h 0 (by omega)).trans (h 2 (by omega)).symm) (by decide : (0x00#8) ≠ 0x0A)
  · exact absurd ((h 0x00 (by simp)).trans (h 0x0A (by simp)).symm) (by decide)

/-- AllIdenticalFramesAndTheSentinel: whatever the break byte is, a byte for each of the three cases. -/
theorem witness_AllIdentical :
    State.reset.engine.table = buildTable 0x83 ∧ (∃ x, x = Config.breakByte) ∧
    (∃ x, x ≠ Config.breakByte ∧ x ∈ [0x00#8, 0x7F#8, 0x81#8, 0xFE#8]) ∧
    (∃ x, x ≠ Config.breakByte ∧ x ∉ [0x00#8, 0x7F#8, 0x81#8, 0xFE#8]) := by
  generalize Config.breakByte = b
  refine ⟨rfl, ⟨b, rfl⟩, ?_, ?_⟩
  · by_cases h : b = 0x00
    · exact ⟨0x7F, by rw [h]; decide, by decide⟩
    · exact ⟨0x00, fun h' => h h'.symm, by decide⟩
  · by_cases h : b = 0x01
    · exact ⟨0x02, by rw [h]; decide, by decide⟩
    · exact ⟨0x01, fun h' => h h'.symm, by decide⟩

/-- SingleAndDoubleBitErrors: the good frame of L1.3, and a double-bit error of L2.9 that passes. -/
theorem witness_SingleAndDoubleBitErrors :
    frameValid (buildTable 0x83) #v[0x05, 0x00, 0x0A, 0x00, 0x0A, 0xE4] = true ∧
    frameValid (buildTable 0x83)
      (flipBit (flipBit #v[0x05, 0x00, 0x0A, 0x00, 0x0A, 0xE4] 19) 47) = true ∧
    frameValid (buildTable 0x83) (flipBit #v[0x05, 0x00, 0x0A, 0x00, 0x0A, 0xE4] 47) = false := by
  simp only [frameValid, frameCrcCalc, crc8_buildTable]; decide +kernel

/-- SixPushesEqualOneLoad. -/
theorem witness_SixPushes : State.reset.engine.legal = true ∧ State.reset.engine.fcount = 0 := by decide

/-- RdRegAnswersTheView: the lowest and the highest reserved number. -/
theorem witness_RdReg : 0x10 ≤ (0x10#8).toNat ∧ 0x10 ≤ (0xFF#8).toNat := by decide

/-- EveryStepKeepsTheInvariant and NoWordStopsTheEngine: the reset state meets the invariant, and a
decoded frame meets it with its fourth clause in use. -/
theorem witness_Inv : State.reset.engine.Inv :=
  ⟨by decide, rfl, by decide +kernel, fun h => absurd h (by decide), fun h => absurd h (by decide)⟩

theorem witness_Inv_decoded : l27.Inv :=
  ⟨by decide, rfl, by decide +kernel, fun _ => rfl, fun h => absurd h (by decide)⟩

/-- ResponsesDependOnTheEngineAlone: two machines with one engine and different responses. -/
theorem witness_ResponsesDepend :
    ∃ s₁ s₂ t₁ : State, s₁.engine = s₂.engine ∧ s₁.input = s₂.input ∧ s₁.responses ≠ s₂.responses ∧
      s₁.input ≠ [] ∧ Sys2Proof.core.run 1 s₁ = .next t₁ :=
  ⟨State.reset.withWords [0x0600000000000000],
    { State.reset.withWords [0x0600000000000000] with responses := [0x00000000] }, _,
    rfl, rfl, by decide, by decide, rfl⟩

/-- FrameCommandsIgnoreTheAccumulator. -/
theorem witness_FrameCommandsIgnore :
    opcodeOf .frmDecode ∈ [0x04#8, 0x05#8, 0x06#8, 0x07#8, 0x08#8] ∧
      ∃ t, exec .frmDecode (stateOf (loaded goodFrame)) = .next t := ⟨by decide, ⟨_, rfl⟩⟩

/-- CrcCommandsIgnoreTheFrame: two engines with different buffers. -/
theorem witness_CrcCommandsIgnore :
    opcodeOf (.crcStep 0x05) ∈ [0x01#8, 0x02#8, 0x03#8] ∧
      State.reset.engine.acc = (stateOf (loaded goodFrame)).engine.acc ∧
      State.reset.engine.table = (stateOf (loaded goodFrame)).engine.table ∧
      State.reset.engine.fcount ≠ (stateOf (loaded goodFrame)).engine.fcount ∧
      ∃ t, exec (.crcStep 0x05) State.reset = .next t :=
  ⟨by decide, rfl, rfl, by decide, ⟨_, rfl⟩⟩

/-- ResultsStayUntilTheNextExtraction: a decode that leaves `FSTAT.FRAME` clear. -/
theorem witness_ResultsStay :
    ∃ t, exec .frmDecode (stateOf overflowed) = .next t ∧ t.engine.fstat.getLsbD 1 = false :=
  ⟨_, rfl, by decide⟩

end Sys2Proof.Tests
end

/-!
The scope of the engine (spec/00_scope.md): the 16-bit values of R8, the step relation of R5 as the
machine's step, and the runs of command words. The invariant that carries the runs is legality.
-/

namespace Sys2Proof.Machine

/-! ### Sixteen-bit values (R8) -/

/-- R8's reading of a pattern is the two's-complement reading of the library. -/
theorem s16_eq_toInt (u : Half) : s16 u = u.toInt := by
  have hmsb : u.msb = u.getLsbD 15 := BitVec.msb_eq_getLsbD_last u
  simp only [s16, BitVec.toInt_eq_msb_cond, hmsb]
  rfl

/-- Settles O26: `s16` and `u16` are the library's two's-complement maps at width 16. -/
theorem signedPatternsRoundTrip : Obligations.SignedPatternsRoundTrip := by
  refine ⟨fun u => ?_, fun i hlo hhi => ?_⟩
  · rw [s16_eq_toInt]
    exact ⟨BitVec.ofInt_toInt, BitVec.le_toInt u, Int.le_of_lt_add_one BitVec.toInt_lt⟩
  · rw [s16_eq_toInt]
    exact BitVec.toInt_ofInt_eq_self (by decide) hlo (Int.lt_add_one_of_le hhi)

/-! ### One step on a command word (R5, R60) -/

/-- In a legal state a step on a command word is R5's step relation on the engine. -/
theorem step_command (s : State) (w : CmdWord) (rest : List HostMove)
    (hl : s.engine.legal = true) (hi : s.input = .command w :: rest) :
    step s = .next { engine := (cmdStep Config.params s.engine w).1, input := rest,
                     responses := s.responses ++ [(cmdStep Config.params s.engine w).2] } := by
  rw [step_of_move s _ rest hl hi]
  exact acceptCommand_eq_complete w { s with input := rest }

/-- Settles O9: the word's decoding selects the arm of `acceptCommand` that runs `exec`. -/
theorem stepRunsTheDecodedCommand : Obligations.StepRunsTheDecodedCommand := by
  intro s w rest i hl hi hd
  calc step s = acceptCommand w { s with input := rest } := step_of_move s _ rest hl hi
    _ = exec i { s with input := rest } := by simp only [acceptCommand, hd]

/-- Settles O10: `exec` completes with `command`, so a step answers what `cmdStep` answers. -/
theorem stepIsTheStepRelation : Obligations.StepIsTheStepRelation :=
  fun s w hl rest => step_command (s.withMoves (.command w :: rest)) w rest hl rfl

/-! ### Legality is kept (R23, R28, R31) -/

theorem Engine.legal_iff (e : Engine) :
    e.legal = true ↔ fcntLegal e.fovf e.fcount = true ∧ fstatLegal e.fstat = true := by
  simp [Engine.legal]

@[simp] theorem Engine.setAcc_legal (e : Engine) (v : Byte) : (e.setAcc v).legal = e.legal := rfl

@[simp] theorem Engine.fillBuffer_legal (e : Engine) (f : Vector Byte 6) :
    (e.fillBuffer f).legal = fstatLegal e.fstat := rfl

@[simp] theorem Engine.emptyBuffer_setFstat_legal (e : Engine) (f : BitVec 5) :
    (e.emptyBuffer.setFstat f).legal = fstatLegal f := rfl

@[simp] theorem Engine.reset_legal (p : Params) : (Engine.reset p).legal = true := rfl

/-- Counting one byte more into a buffer that is not full, which has no overflow recorded. -/
theorem fcntLegal_succ : ∀ (fovf : Bool) (n : BitVec 3), fcntLegal fovf n = true → n.toNat < 6 →
    fcntLegal fovf (n + 1) = true := by decide

/-- A legal count that is not below 6 is 6, where the overflow may be recorded. -/
theorem fcntLegal_overflow : ∀ (fovf : Bool) (n : BitVec 3), fcntLegal fovf n = true →
    ¬ n.toNat < 6 → fcntLegal true n = true := by decide

/-- FRM.PUSH is the one command that moves `FCOUNT` and `FOVF` by what they were (R136). -/
theorem frmPush_keeps_legal (b : Byte) (e : Engine) (hl : e.legal = true) :
    (frmPush b e).1.legal = true := by
  obtain ⟨hcnt, hstat⟩ := e.legal_iff.mp hl
  obtain ⟨hlt, heq⟩ | ⟨hfull, heq⟩ := frmPush_cases b e
  · rw [heq]
    exact (Engine.legal_iff _).mpr ⟨fcntLegal_succ _ _ hcnt hlt, hstat⟩
  · rw [heq]
    exact (Engine.legal_iff _).mpr ⟨fcntLegal_overflow _ _ hcnt hfull, hstat⟩

/-- Every path of FRM.DECODE empties the buffer and sets `FSTAT` to one of the values of R28. -/
theorem frmDecode_legal (p : Params) (e : Engine) : (frmDecode p e).1.legal = true := by
  obtain ⟨-, heq⟩ | ⟨-, -, heq⟩ | ⟨-, -, -, heq⟩ | ⟨-, -, -, heq⟩ := frmDecode_cases p e <;>
    rw [heq, Engine.emptyBuffer_setFstat_legal] <;> decide

/-- RD.REG leaves the engine as it was (R171). -/
theorem rdReg_engine (p : Params) (r : Byte) (e : Engine) : (rdReg p r e).1 = e := by
  obtain ⟨_, -, heq⟩ | ⟨-, heq⟩ := rdReg_cases p r e <;> rw [heq]

theorem command_keeps_legal (p : Params) (i : Instr) (e : Engine) (hl : e.legal = true) :
    (command p i e).1.legal = true := by
  have hstat : fstatLegal e.fstat = true := (e.legal_iff.mp hl).2
  cases i with
  | nop => exact hl
  | crcInit => exact (e.setAcc_legal _).trans hl
  | crcStep b => exact (e.setAcc_legal _).trans hl
  | tblRead k => exact hl
  | frmPush b => exact frmPush_keeps_legal b e hl
  | frmLoad f0 f1 f2 f3 f4 f5 => exact (e.fillBuffer_legal _).trans hstat
  | frmDecode => exact frmDecode_legal p e
  | frmClear => exact e.emptyBuffer_setFstat_legal fstatNone
  | frmEncode idx enc stp => exact (e.fillBuffer_legal _).trans hstat
  | rdReg r => simpa only [command, rdReg_engine] using hl

/-- A word that decodes to no command leaves the engine as it was (R76, R77). -/
theorem cmdStep_keeps_legal (p : Params) (e : Engine) (w : CmdWord) (hl : e.legal = true) :
    (cmdStep p e w).1.legal = true := by
  unfold cmdStep
  cases decode w with
  | instr i => exact command_keeps_legal p i e hl
  | illegalOpcode => exact hl
  | reservedField => exact hl

/-! ### Runs -/

/-- From a legal state a step goes on, whatever the host's next move. -/
theorem step_of_legal (s : State) (hl : s.engine.legal = true) : ∃ t, step s = .next t := by
  cases hi : s.input with
  | nil => exact ⟨s, by simp [step, hl, hi]⟩
  | cons m rest =>
    cases m with
    | command w => exact ⟨_, step_command s w rest hl hi⟩
    | reset => exact ⟨_, step_of_move s .reset rest hl hi⟩
    | abort w => exact ⟨_, step_of_move s (.abort w) rest hl hi⟩

theorem step_keeps_legal (s t : State) (h : step s = .next t) : t.engine.legal = true := by
  obtain ⟨hl, ⟨-, rfl⟩ | ⟨w, rest, -, rfl⟩ | ⟨m, rest, -, -, rfl⟩⟩ := step_next_cases s t h
  · exact hl
  · exact cmdStep_keeps_legal Config.params s.engine w hl
  · exact Engine.reset_legal Config.params

/-- No number of steps from a legal state faults or is refused. -/
theorem safeRun_of_legal (s : State) (hl : s.engine.legal = true) : SafeRun s := by
  intro n
  induction n generalizing s with
  | zero => exact ⟨s, core_run_zero s⟩
  | succ n ih =>
    obtain ⟨t, ht⟩ := step_of_legal s hl
    rw [core_run_succ s t n ht]
    exact ih t (step_keeps_legal s t ht)

/-- One response per word. -/
theorem length_cmdRun (p : Params) (e : Engine) (ws : List CmdWord) :
    (cmdRun p e ws).2.length = ws.length := by
  induction ws generalizing e with
  | nil => rfl
  | cons w ws ih => simp [cmdRun, ih]

/-- A step for each word runs them as `cmdRun` does and leaves no move waiting. -/
theorem core_run_withWords (s : State) (hl : s.engine.legal = true) (ws : List CmdWord) :
    Sys2Proof.core.run ws.length (s.withWords ws) =
      .next { engine := (cmdRun Config.params s.engine ws).1, input := [],
              responses := s.responses ++ (cmdRun Config.params s.engine ws).2 } := by
  induction ws generalizing s with
  | nil => simp [core_run_zero, cmdRun, State.withWords, State.withMoves]
  | cons w ws ih =>
    have hstep := stepIsTheStepRelation s w hl (ws.map .command)
    have hrest := ih
      { s with
        engine := (cmdStep Config.params s.engine w).1
        responses := s.responses ++ [(cmdStep Config.params s.engine w).2] }
      (cmdStep_keeps_legal Config.params s.engine w hl)
    rw [List.length_cons]
    refine (core_run_succ _ _ _ hstep).trans ?_
    simpa [cmdRun, State.withWords, State.withMoves] using hrest

/-- Settles O45: the invariant gives legality, which every step keeps. -/
theorem noWordStopsTheEngine : Obligations.NoWordStopsTheEngine := by
  intro s hinv
  exact ⟨safeRun_of_legal s hinv.legal, fun ws => ⟨_, (cmdRun Config.params s.engine ws).2,
    core_run_withWords s hinv.legal ws, rfl, rfl, length_cmdRun Config.params s.engine ws, rfl⟩⟩

end Sys2Proof.Machine

/-!
The engine's state (spec/10_state.md): what a command writes, said once as its effect, and the invariant
and the isolation that follow from it.
-/

namespace Sys2Proof.Machine

/-! ### Reset (R34) -/

/-- `0` has no high bit to reduce, so no polynomial enters (R100). -/
@[simp] theorem crcShift_zero (poly : Byte) : crcShift poly 0#8 = 0#8 := by
  simp [crcShift]

@[simp] theorem tableEntry_zero (poly : Byte) : tableEntry poly 0#8 = 0#8 := by
  simp [tableEntry, Nat.repeat]

/-- Zero bytes fold to zero (R103). -/
theorem crc8_buildTable_replicate_zero (poly : Byte) (n : Nat) :
    crc8 (buildTable poly) (List.replicate n 0#8) = 0#8 := by
  induction n with
  | zero => rfl
  | succ n ih => simp [List.replicate_succ', crc8_append_singleton, ih]

/-- The five result registers at zero carry the checksum of zero bytes, and `FSTAT` claims no frame. -/
theorem Engine.reset_inv : (Engine.reset Config.params).Inv where
  legal := Engine.reset_legal Config.params
  table := rfl
  crcCalc := (crc8_buildTable_replicate_zero Config.params.poly 5).symm
  valid h := absurd h (by decide)
  mismatch h := absurd h (by decide)

/-- Settles O43: the reset engine is legal, and its result registers hold the checksum of zeros. -/
theorem invariantHoldsAtReset : Obligations.InvariantHoldsAtReset := Engine.reset_inv

/-- Settles O41: a legal engine meets the reset move with `hostReset`. -/
theorem resetSetsEveryRegister : Obligations.ResetSetsEveryRegister :=
  ⟨fun s rest hl => step_of_move (s.withMoves (.reset :: rest)) .reset rest hl rfl, rfl⟩

/-! ### The states a step stops in (P9) -/

theorem fcntLegal_eq_false_iff : ∀ (fovf : Bool) (n : BitVec 3),
    fcntLegal fovf n = false ↔ 6 < n.toNat ∨ (fovf = true ∧ n.toNat < 6) := by decide

theorem fstatLegal_eq_false_iff : ∀ f : BitVec 5,
    fstatLegal f = false ↔ f ∉ [0x00#5, 0x03#5, 0x07#5, 0x09#5, 0x11#5] := by decide

/-- The engine is not legal exactly where P9 says. -/
theorem Engine.legal_eq_false_iff (e : Engine) :
    e.legal = false ↔ 6 < e.fcount.toNat ∨ (e.fovf = true ∧ e.fcount.toNat < 6) ∨
      e.fstat ∉ [0x00#5, 0x03#5, 0x07#5, 0x09#5, 0x11#5] := by
  rw [Engine.legal, Bool.and_eq_false_iff, fcntLegal_eq_false_iff, fstatLegal_eq_false_iff, or_assoc]

theorem step_of_not_legal (s : State) (hl : s.engine.legal = false) :
    step s = .fault .unreachableState := by
  simp [step, hl]

/-- Settles O15: a legal engine goes on, and any other faults. -/
theorem unreachableStateFaults : Obligations.UnreachableStateFaults := by
  intro s
  rw [← Engine.legal_eq_false_iff]
  cases hl : s.engine.legal with
  | false => simp [step_of_not_legal s hl]
  | true =>
    obtain ⟨t, ht⟩ := step_of_legal s hl
    simp [ht]

/-! ### What a command writes (R20) -/

/-- `Effect op e e'`: a command of opcode `op` may turn the engine `e` into `e'`. One case per group of
registers that R20's "written by" column names together. -/
inductive Effect (op : Byte) (e : Engine) : Engine → Prop where
  /-- NOP, TBL.READ and RD.REG write nothing. -/
  | unchanged : Effect op e e
  /-- CRC.INIT and CRC.STEP write `ACC`. -/
  | setAcc (v : Byte) : op ∈ [0x01#8, 0x02#8] → Effect op e (e.setAcc v)
  /-- FRM.PUSH writes the buffer and its count, or records the overflow. -/
  | pushByte (b : Byte) : op = 0x04#8 → Effect op e (e.pushByte b)
  /-- FRM.LOAD and FRM.ENCODE write the whole buffer. -/
  | fillBuffer (f : Vector Byte 6) : op ∈ [0x05#8, 0x08#8] → Effect op e (e.fillBuffer f)
  /-- FRM.CLEAR, and FRM.DECODE on a length error or a break: `FSTAT.FRAME` is clear and the result
  registers stay. -/
  | discard (f : BitVec 5) : op ∈ [0x06#8, 0x07#8] → fstatFrame f = false →
      Effect op e (e.emptyBuffer.setFstat f)
  /-- FRM.DECODE extracts a frame that validates. -/
  | extractValid : op = 0x06#8 → frameValid e.table e.fbuf = true →
      Effect op e (e.extractFrame.emptyBuffer.setFstat fstatValid)
  /-- FRM.DECODE extracts a frame that does not validate. -/
  | extractMismatch : op = 0x06#8 → frameValid e.table e.fbuf = false →
      Effect op e (e.extractFrame.emptyBuffer.setFstat fstatMismatch)

theorem frmDecode_effect (p : Params) (e : Engine) : Effect 0x06 e (frmDecode p e).1 := by
  obtain ⟨-, heq⟩ | ⟨-, -, heq⟩ | ⟨-, -, hv, heq⟩ | ⟨-, -, hv, heq⟩ := frmDecode_cases p e <;> rw [heq]
  · exact .discard fstatLength (by decide) (by decide)
  · exact .discard fstatSentinel (by decide) (by decide)
  · exact .extractValid rfl hv
  · exact .extractMismatch rfl hv

/-- Every command has one of the effects. -/
theorem command_effect (p : Params) (i : Instr) (e : Engine) :
    Effect (opcodeOf i) e (command p i e).1 := by
  cases i with
  | nop => exact .unchanged
  | crcInit => exact .setAcc _ (by simp [opcodeOf])
  | crcStep b => exact .setAcc _ (by simp [opcodeOf])
  | tblRead k => exact .unchanged
  | frmPush b => exact .pushByte b rfl
  | frmLoad f0 f1 f2 f3 f4 f5 => exact .fillBuffer _ (by simp [opcodeOf])
  | frmDecode => exact frmDecode_effect p e
  | frmClear => exact .discard fstatNone (by simp [opcodeOf]) (by decide)
  | frmEncode idx enc stp => exact .fillBuffer _ (by simp [opcodeOf])
  | rdReg r => simpa only [command, rdReg_engine] using Effect.unchanged

section
variable {op : Byte} {e e' : Engine} (h : Effect op e e')
include h

theorem Effect.acc_eq (hop : op ∉ [0x01#8, 0x02#8]) : e'.acc = e.acc := by
  cases h with
  | setAcc v hacc => exact absurd hacc hop
  | _ => simp

theorem Effect.fbuf_eq (hop : op ∉ [0x04#8, 0x05#8, 0x08#8]) : e'.fbuf = e.fbuf := by
  cases h with
  | pushByte b hpush => simp [hpush] at hop
  | fillBuffer f hfill => exact absurd (List.mem_cons_of_mem _ hfill) hop
  | _ => simp

/-- Every effect but the first two has its opcodes among those excluded. -/
theorem Effect.fcount_fovf_eq (hop : op ∉ [0x04#8, 0x05#8, 0x06#8, 0x07#8, 0x08#8]) :
    e'.fcount = e.fcount ∧ e'.fovf = e.fovf := by
  cases h with
  | unchanged | setAcc => simp
  | _ => simp_all

theorem Effect.fstat_eq (hop : op ∉ [0x06#8, 0x07#8]) : e'.fstat = e.fstat := by
  cases h with
  | discard f hfrm => exact absurd hfrm hop
  | extractValid hdec | extractMismatch hdec => simp [hdec] at hop
  | _ => simp

theorem Effect.results_eq (hop : op ≠ 0x06#8) :
    e'.resIndex = e.resIndex ∧ e'.resEnc = e.resEnc ∧ e'.resStp = e.resStp ∧
      e'.resCrcCalc = e.resCrcCalc ∧ e'.resCrcRecv = e.resCrcRecv := by
  cases h with
  | extractValid hdec | extractMismatch hdec => exact absurd hdec hop
  | _ => simp

theorem Effect.table_eq : e'.table = e.table := by cases h <;> simp

end

/-- Settles O13: a command's effect writes only registers that R20 names it for. -/
theorem onlyTheNamedCommandsWriteARegister : Obligations.OnlyTheNamedCommandsWriteARegister := by
  intro i s t h
  rw [exec_eq_complete, complete_eq_next_iff] at h
  subst h
  have heff := command_effect Config.params i s.engine
  exact ⟨heff.acc_eq, heff.fbuf_eq, heff.fcount_fovf_eq, heff.fstat_eq, heff.results_eq,
    heff.table_eq, rfl, _, rfl⟩

/-! ### The invariant (R23, R25, R28, R31, R32) -/

@[simp] theorem hiByte_beHalf (hi lo : Byte) : hiByte (beHalf hi lo) = hi := by
  show (hi ++ lo : BitVec (8 + 8)).extractLsb' 8 8 = hi
  simp (disch := omega) only [extractLsb'_append_high]
  simp

@[simp] theorem loByte_beHalf (hi lo : Byte) : loByte (beHalf hi lo) = lo := by
  show (hi ++ lo : BitVec (8 + 8)).extractLsb' 0 8 = lo
  simp (disch := omega) only [extractLsb'_append_low]
  simp

/-- The fields of a frame, written out again, are the bytes its checksum covers (R131, R133). -/
theorem payloadOf_frame_fields (f : Vector Byte 6) :
    payloadOf (frameIndex f) (frameEncoder f) (frameStepper f) = framePayload f := by
  simp [payloadOf, framePayload, frameIndex, frameEncoder, frameStepper]

/-- The checksum validator compares the two bytes that FRM.DECODE records (R133). -/
theorem frameValid_iff (e : Engine) :
    frameValid e.table e.fbuf = true ↔ e.extractFrame.resCrcCalc = e.extractFrame.resCrcRecv := by
  simp [frameValid]

theorem Engine.extractFrame_resCrcCalc_eq (e : Engine) :
    e.extractFrame.resCrcCalc = crc8 e.table
      (payloadOf e.extractFrame.resIndex e.extractFrame.resEnc e.extractFrame.resStp) := by
  simp [frameCrcCalc, payloadOf_frame_fields]

/-- An effect with a legal outcome keeps the invariant. -/
theorem Engine.Inv.of_effect {op : Byte} {e e' : Engine} (hinv : e.Inv) (h : Effect op e e')
    (hl : e'.legal = true) : e'.Inv := by
  have htable : e'.table = buildTable Config.poly := h.table_eq.trans hinv.table
  cases h with
  | unchanged => exact hinv
  | setAcc | pushByte | fillBuffer =>
    exact ⟨hl, htable, by simpa using hinv.crcCalc, by simpa using hinv.valid,
      by simpa using hinv.mismatch⟩
  | discard f _ hframe =>
    -- `FSTAT` no longer claims a frame, so nothing ties it to the older result registers (R234)
    refine ⟨hl, htable, hinv.crcCalc, ?_, ?_⟩ <;>
      · rintro rfl
        exact absurd hframe (by decide)
  | extractValid _ hv =>
    exact ⟨hl, htable, e.extractFrame_resCrcCalc_eq, fun _ => (frameValid_iff e).mp hv,
      fun hf => absurd hf (by simp; decide)⟩
  | extractMismatch _ hv =>
    exact ⟨hl, htable, e.extractFrame_resCrcCalc_eq, fun hf => absurd hf (by simp; decide),
      fun _ heq => by simp [(frameValid_iff e).mpr heq] at hv⟩

/-- A word that decodes to no command leaves the engine as it was (R76, R77). -/
theorem cmdStep_effect (p : Params) (e : Engine) (w : CmdWord) :
    ∃ op, Effect op e (cmdStep p e w).1 := by
  unfold cmdStep
  cases decode w with
  | instr i => exact ⟨opcodeOf i, command_effect p i e⟩
  | illegalOpcode | reservedField => exact ⟨opField w, .unchanged⟩

theorem cmdStep_keeps_inv (p : Params) (e : Engine) (w : CmdWord) (hinv : e.Inv) :
    (cmdStep p e w).1.Inv := by
  obtain ⟨op, heff⟩ := cmdStep_effect p e w
  exact hinv.of_effect heff (cmdStep_keeps_legal p e w hinv.legal)

/-- Settles O44: the machine idles, runs a word, whose effect keeps the invariant, or resets. -/
theorem everyStepKeepsTheInvariant : Obligations.EveryStepKeepsTheInvariant := by
  intro s t hinv h
  obtain ⟨-, ⟨-, rfl⟩ | ⟨w, rest, -, rfl⟩ | ⟨m, rest, -, -, rfl⟩⟩ := step_next_cases s t h
  · exact hinv
  · exact cmdStep_keeps_inv Config.params s.engine w hinv
  · exact Engine.reset_inv

/-! ### Earlier responses are never read (R33, R35) -/

/-- `s` with other earlier responses. -/
def State.withResponses (s : State) (q : List RspWord) : State := { s with responses := q }

/-- A step appends the same responses to whatever the machine answered before. -/
theorem step_withResponses (s t : State) (h : step s = .next t) :
    ∃ rs, ∀ q, step (s.withResponses q) = .next (t.withResponses (q ++ rs)) := by
  obtain ⟨hl, ⟨hi, rfl⟩ | ⟨w, rest, hi, rfl⟩ | ⟨m, rest, hi, hm, rfl⟩⟩ := step_next_cases s t h
  · exact ⟨[], fun q => by simp [step, State.withResponses, hl, hi]⟩
  · exact ⟨[(cmdStep Config.params s.engine w).2], fun q =>
      step_command (s.withResponses q) w rest hl hi⟩
  · refine ⟨[], fun q => ?_⟩
    rw [step_of_move (s.withResponses q) m rest hl hi, List.append_nil]
    obtain rfl | ⟨w, rfl⟩ := hm <;> rfl

/-- A run of one step more that answers a next state came through the state of its first step. -/
theorem core_run_succ_next (s t : State) (n : Nat) (h : Sys2Proof.core.run (n + 1) s = .next t) :
    ∃ u, step s = .next u ∧ Sys2Proof.core.run n u = .next t := by
  cases hs : Sys2Proof.core.step s with
  | next u => exact ⟨u, hs, (core_run_succ s u n hs).symm.trans h⟩
  | fault r => simp [Host.Core.run, hs] at h
  | refused r => simp [Host.Core.run, hs] at h

theorem core_run_withResponses (n : Nat) (s t : State) (h : Sys2Proof.core.run n s = .next t) :
    ∃ rs, ∀ q, Sys2Proof.core.run n (s.withResponses q) = .next (t.withResponses (q ++ rs)) := by
  induction n generalizing s with
  | zero =>
    obtain rfl : s = t := Host.Outcome.next.inj h
    exact ⟨[], fun q => by rw [core_run_zero, List.append_nil]⟩
  | succ n ih =>
    obtain ⟨u, hstep, hrun⟩ := core_run_succ_next s t n h
    obtain ⟨first, hfirst⟩ := step_withResponses s u hstep
    obtain ⟨rest, hrest⟩ := ih u hrun
    refine ⟨first ++ rest, fun q => ?_⟩
    rw [core_run_succ _ _ n (hfirst q), hrest, List.append_assoc]

/-- Settles O46: the second machine is the first with other earlier responses. -/
theorem responsesDependOnTheEngineAlone : Obligations.ResponsesDependOnTheEngineAlone := by
  intro s₁ s₂ n t₁ hengine hinput hrun
  have hs₂ : s₂ = s₁.withResponses s₂.responses := by
    simp [State.withResponses, hengine, hinput]
  obtain ⟨rs, hrs⟩ := core_run_withResponses n s₁ t₁ hrun
  have ht₁ : t₁ = t₁.withResponses (s₁.responses ++ rs) :=
    Host.Outcome.next.inj (hrun.symm.trans (hrs s₁.responses))
  refine ⟨t₁.withResponses (s₂.responses ++ rs), rs, ?_, rfl, rfl, congrArg State.responses ht₁, rfl⟩
  rw [hs₂]
  exact hrs s₂.responses

end Sys2Proof.Machine

/-!
Words on a byte-wide path (spec/20_memory.md R54): the bytes of a word in the order they are sent, and
the word that they join to.
-/

namespace Sys2Proof

/-! ### The bytes by their number (R54) -/

theorem wordBytes_getElem? (w : CmdWord) (k : Nat) (hk : k < 8) :
    (wordBytes w)[k]? = some (w.extractLsb' (56 - 8 * k) 8) := by
  interval_cases k <;> rfl

theorem rspBytes_getElem? (r : RspWord) (k : Nat) (hk : k < 4) :
    (rspBytes r)[k]? = some (r.extractLsb' (24 - 8 * k) 8) := by
  interval_cases k <;> rfl

/-! ### Splitting and joining a command word (R54) -/

/-- The eight fields of R70 follow one another without a gap, so they join to the whole word. -/
theorem wordOfBytes_wordBytes (w : CmdWord) : wordOfBytes (wordBytes w) = some w := by
  show some (w.extractLsb' 56 8 ++ w.extractLsb' 48 8 ++ w.extractLsb' 40 8 ++ w.extractLsb' 32 8 ++
    w.extractLsb' 24 8 ++ w.extractLsb' 16 8 ++ w.extractLsb' 8 8 ++ w.extractLsb' 0 8 :
      BitVec (8 + 8 + 8 + 8 + 8 + 8 + 8 + 8)) = some w
  simp (disch := omega) only [BitVec.extractLsb'_append_extractLsb'_eq_extractLsb',
    BitVec.extractLsb'_eq_self]

/-- The fields of eight joined bytes are these bytes: each starts where the bytes after it end. -/
theorem wordBytes_append (op b0 b1 b2 b3 b4 b5 rsv : Byte) :
    wordBytes (op ++ b0 ++ b1 ++ b2 ++ b3 ++ b4 ++ b5 ++ rsv) =
      [op, b0, b1, b2, b3, b4, b5, rsv] := by
  have fields (w : BitVec (8 + 8 + 8 + 8 + 8 + 8 + 8 + 8)) : wordBytes w =
      [w.extractLsb' 56 8, w.extractLsb' 48 8, w.extractLsb' 40 8, w.extractLsb' 32 8,
        w.extractLsb' 24 8, w.extractLsb' 16 8, w.extractLsb' 8 8, w.extractLsb' 0 8] := rfl
  refine (fields (op ++ b0 ++ b1 ++ b2 ++ b3 ++ b4 ++ b5 ++ rsv)).trans ?_
  simp (disch := omega) only [extractLsb'_append_high, extractLsb'_append_low]
  simp

/-- Only eight bytes join to a word, and the word's bytes are those. -/
theorem wordBytes_of_wordOfBytes (bs : List Byte) (w : CmdWord) (h : wordOfBytes bs = some w) :
    wordBytes w = bs := by
  unfold wordOfBytes at h
  split at h
  · cases h
    exact wordBytes_append ..
  · cases h

/-- Settles O7: the fields of R70 are the bytes in order, and a word is the join of its bytes. -/
theorem byteWidePathKeepsTheWord : Obligations.ByteWidePathKeepsTheWord :=
  ⟨fun w => ⟨rfl, wordBytes_getElem? w⟩, fun r => ⟨rfl, rspBytes_getElem? r⟩,
    wordOfBytes_wordBytes, wordBytes_of_wordOfBytes⟩

end Sys2Proof

/-!
The encoding (spec/30_encoding.md): a word and its command determine each other (R70 to R75), the two
errors of the decoder (R76, R77), the assembler's words (R79), and the pseudo-instructions as the machine
runs them (R80).
-/

namespace Sys2Proof

/-! ### From a command to its word and back (R72, R74) -/

/-- An encoded word passes the mask test of its opcode's row. -/
theorem encode_fitsRow (i : Instr) : Laws.EncodeFitsRow.Statement i := by
  cases i with
  | nop => exact Laws.EncodeFitsRow.nop
  | crcInit => exact Laws.EncodeFitsRow.crcInit
  | crcStep b => exact Laws.EncodeFitsRow.crcStep b
  | tblRead i => exact Laws.EncodeFitsRow.tblRead i
  | frmPush b => exact Laws.EncodeFitsRow.frmPush b
  | frmLoad f0 f1 f2 f3 f4 f5 => exact Laws.EncodeFitsRow.frmLoad f0 f1 f2 f3 f4 f5
  | frmDecode => exact Laws.EncodeFitsRow.frmDecode
  | frmClear => exact Laws.EncodeFitsRow.frmClear
  | frmEncode idx enc stp => exact Laws.EncodeFitsRow.frmEncode idx enc stp
  | rdReg r => exact Laws.EncodeFitsRow.rdReg r

/-- The row of a command's opcode reads the command's operands from its word. -/
theorem operands_encode (i : Instr) (row : OpRow) (h : opRow (opcodeOf i) = some row) :
    row.operands (encode i) = i := by
  cases i with
  | nop | crcInit | frmDecode | frmClear => cases h; rfl
  | crcStep b => cases h; exact congrArg Instr.crcStep (b0Field_oneByte 0x02 b)
  | tblRead i => cases h; exact congrArg Instr.tblRead (b0Field_oneByte 0x03 i)
  | frmPush b => cases h; exact congrArg Instr.frmPush (b0Field_oneByte 0x04 b)
  | frmLoad f0 f1 f2 f3 f4 f5 =>
    cases h
    simp only [encode, b0Field_sixBytes, b1Field_sixBytes, b2Field_sixBytes, b3Field_sixBytes,
      b4Field_sixBytes, b5Field_sixBytes]
  | frmEncode idx enc stp =>
    cases h
    simp only [encode, b0Field_frame, h1Field_frame, h2Field_frame]
  | rdReg r => cases h; exact congrArg Instr.rdReg (b0Field_oneByte 0x09 r)

@[simp] theorem decode_encode (i : Instr) : decode (encode i) = .instr i := by
  obtain ⟨row, hrow, hfit⟩ := encode_fitsRow i
  have hrow' : opRow (opField (encode i)) = some row := by rw [opField_encode, hrow]
  rw [decode_of_opRow_some _ row hrow' hfit, operands_encode i row hrow]

/-- Settles O1: the word fits the row of its opcode, and that row reads every operand back. -/
theorem decodeOfEncodeIsTheCommand : Obligations.DecodeOfEncodeIsTheCommand := decode_encode

/-- Settles O6: the five words are the encodings of the five commands. -/
theorem wordsOfTheSpecDecode : Obligations.WordsOfTheSpecDecode :=
  ⟨decode_encode (.crcStep 0x05), decode_encode (.frmLoad 0x00 0x00 0x0A 0x00 0x0A 0x44),
    decode_encode (.frmEncode 0x05 0x000A 0xFFF6), decode_encode (.rdReg 0x04),
    decode_encode .frmDecode⟩

/-! ### From a word to its command and back (R74, R75) -/

/-- A field that a mask covers whole is fixed by the mask test. -/
theorem extractLsb'_of_and_eq {w mask pattern : CmdWord} {s n : Nat} (h : w &&& mask = pattern)
    (hmask : mask.extractLsb' s n = BitVec.allOnes n) :
    w.extractLsb' s n = pattern.extractLsb' s n := by
  rw [← h, BitVec.extractLsb'_and, hmask, BitVec.and_allOnes]

/-- A word is its opcode, its first payload byte and the tail after it. -/
theorem split_oneByte (w : CmdWord) : opField w ++ b0Field w ++ w.extractLsb' 0 48 = w := by
  show (w.extractLsb' 56 8 ++ w.extractLsb' 48 8 ++ w.extractLsb' 0 48 : BitVec (8 + 8 + 48)) = w
  simp (disch := omega) only [BitVec.extractLsb'_append_extractLsb'_eq_extractLsb',
    BitVec.extractLsb'_eq_self]

/-- A word is its opcode, `B0`, `H1`, `H2` and the tail after them (R71). -/
theorem split_frame (w : CmdWord) :
    opField w ++ b0Field w ++ h1Field w ++ h2Field w ++ w.extractLsb' 0 16 = w := by
  show (w.extractLsb' 56 8 ++ w.extractLsb' 48 8 ++ w.extractLsb' 32 16 ++ w.extractLsb' 16 16 ++
    w.extractLsb' 0 16 : BitVec (8 + 8 + 16 + 16 + 16)) = w
  simp (disch := omega) only [BitVec.extractLsb'_append_extractLsb'_eq_extractLsb',
    BitVec.extractLsb'_eq_self]

/-- Under a mask of ones the word is the pattern. -/
theorem eq_of_and_ones {w pattern : CmdWord} (h : w &&& 0xFFFFFFFFFFFFFFFF = pattern) :
    pattern = w :=
  h.symm.trans BitVec.and_allOnes

theorem append_of_mask_oneByte {w : CmdWord} {op : Byte} (hop : opField w = op)
    (h : w &&& 0xFF00FFFFFFFFFFFF = op ++ 0#56) : op ++ b0Field w ++ 0#48 = w := by
  have tail : w.extractLsb' 0 48 = 0#48 :=
    (extractLsb'_of_and_eq h (by decide)).trans (extractLsb'_append_low op 0#56 0 48 (by decide))
  have hsplit := split_oneByte w
  rwa [tail, hop] at hsplit

theorem append_of_mask_sixBytes {w : CmdWord} {op : Byte} (hop : opField w = op)
    (h : w &&& 0xFF000000000000FF = op ++ 0#56) :
    op ++ b0Field w ++ b1Field w ++ b2Field w ++ b3Field w ++ b4Field w ++ b5Field w ++ 0#8 = w := by
  have tail : rsvField w = 0#8 :=
    (extractLsb'_of_and_eq h (by decide)).trans (extractLsb'_append_low op 0#56 0 8 (by decide))
  have hsplit := Option.some.inj (wordOfBytes_wordBytes w)
  rwa [tail, hop] at hsplit

theorem append_of_mask_frame {w : CmdWord} {op : Byte} (hop : opField w = op)
    (h : w &&& 0xFF0000000000FFFF = op ++ 0#56) :
    op ++ b0Field w ++ h1Field w ++ h2Field w ++ 0#16 = w := by
  have tail : w.extractLsb' 0 16 = 0#16 :=
    (extractLsb'_of_and_eq h (by decide)).trans (extractLsb'_append_low op 0#56 0 16 (by decide))
  have hsplit := split_frame w
  rwa [tail, hop] at hsplit

/-- A word that passes its row's mask test is the encoding of the command the row reads from it. -/
theorem encode_operands (w : CmdWord) (row : OpRow) (hrow : row ∈ opcodeTable)
    (hop : opField w = row.opcode) (h : w &&& row.mask = row.pattern) :
    encode (row.operands w) = w := by
  simp only [opcodeTable, List.mem_cons, List.not_mem_nil, or_false] at hrow
  obtain rfl | rfl | rfl | rfl | rfl | rfl | rfl | rfl | rfl | rfl := hrow
  · exact eq_of_and_ones h
  · exact eq_of_and_ones h
  · exact append_of_mask_oneByte hop h
  · exact append_of_mask_oneByte hop h
  · exact append_of_mask_oneByte hop h
  · exact append_of_mask_sixBytes hop h
  · exact eq_of_and_ones h
  · exact eq_of_and_ones h
  · exact append_of_mask_frame hop h
  · exact append_of_mask_oneByte hop h

/-- Settles O2: only a word that passes its row's mask test decodes to a command. -/
theorem encodeOfDecodeIsTheWord : Obligations.EncodeOfDecodeIsTheWord := by
  intro w i hd
  obtain ⟨-, hill⟩ | ⟨row, hrow, hop, heq⟩ := decode_cases w
  · cases hill.symm.trans hd
  · rw [heq] at hd
    split at hd
    · next hfit =>
      cases hd
      exact encode_operands w row hrow hop hfit
    · cases hd

/-! ### The decoder's outcomes (R75) -/

/-- R75, first case, by the opcode's number. -/
theorem decode_of_opcode_ge (w : CmdWord) (h : 0x0A ≤ (opField w).toNat) :
    decode w = .illegalOpcode := by
  refine decode_of_opRow_none w (Option.isNone_iff_eq_none.mp ?_)
  rw [← Option.not_isSome, opRow_isSome]
  simpa using h

/-- R75, second and third case: the row's mask test decides between them. -/
theorem decode_of_opcode {w : CmdWord} {op : Byte} {row : OpRow} (hop : opField w = op)
    (hrow : opRow op = some row) :
    (w &&& row.mask = row.pattern → decode w = .instr (row.operands w)) ∧
      (w &&& row.mask ≠ row.pattern → decode w = .reservedField) := by
  subst hop
  exact ⟨decode_of_opRow_some w row hrow, decode_of_reserved w row hrow⟩

/-- Settles O3: the opcode selects the row, and the row's mask test the outcome. -/
theorem decoderHasThreeOutcomes : Obligations.DecoderHasThreeOutcomes := fun w =>
  ⟨decode_of_opcode_ge w,
    fun hop => decode_of_opcode hop rfl, fun hop => decode_of_opcode hop rfl,
    fun hop => decode_of_opcode hop rfl, fun hop => decode_of_opcode hop rfl,
    fun hop => decode_of_opcode hop rfl, fun hop => decode_of_opcode hop rfl,
    fun hop => decode_of_opcode hop rfl, fun hop => decode_of_opcode hop rfl,
    fun hop => decode_of_opcode hop rfl, fun hop => decode_of_opcode hop rfl⟩

end Sys2Proof

namespace Sys2Proof.Machine

open Sys2Proof.Claims

/-! ### The decoder's two errors (R76, R77) -/

/-- What `cmdStep` gives is what the machine does with the word. -/
theorem wordRuns_of_cmdStep {s : State} {w : CmdWord} {e : Engine} {r : RspWord}
    (h : cmdStep Config.params s.engine w = (e, r)) : wordRuns s w e r := by
  have hruns := stepIsTheStepRelation s w
  rwa [h] at hruns

theorem cmdStep_of_illegalOpcode (p : Params) (e : Engine) (w : CmdWord)
    (h : decode w = .illegalOpcode) : cmdStep p e w = raise (opField w) .illegalOpcode e := by
  simp only [cmdStep, h]

theorem cmdStep_of_reservedField (p : Params) (e : Engine) (w : CmdWord)
    (h : decode w = .reservedField) : cmdStep p e w = raise (opField w) .reservedField e := by
  simp only [cmdStep, h]

/-- Settles O4: such a word has no row, so it raises ILLEGAL_OPCODE. -/
theorem illegalOpcodeIsAnsweredAndWritesNothing :
    Obligations.IllegalOpcodeIsAnsweredAndWritesNothing := fun s w h =>
  wordRuns_of_cmdStep (cmdStep_of_illegalOpcode Config.params s.engine w (decode_of_opcode_ge w h))

/-- Each row of R74 masks the opcode and the fields that must be zero. -/
theorem mask_pattern_of_row : ∀ row ∈ opcodeTable,
    row.mask = 0xFF00000000000000 ||| mustBeZero row.opcode.toNat ∧
      row.pattern = row.opcode ++ 0#56 ∧
      0xFF00000000000000 &&& mustBeZero row.opcode.toNat = 0 := by decide

/-- A word passes its row's mask test when its must-be-zero fields are zero. -/
theorem row_fits_iff (w : CmdWord) (row : OpRow) (hrow : row ∈ opcodeTable)
    (hop : opField w = row.opcode) :
    w &&& row.mask = row.pattern ↔ w &&& mustBeZero row.opcode.toNat = 0 := by
  obtain ⟨hmask, hpattern, hdisjoint⟩ := mask_pattern_of_row row hrow
  rw [hmask, hpattern, ← hop]
  exact and_mask_eq_iff w _ _ _ (and_top w) (hop ▸ hdisjoint)

/-- R77's condition in the terms of R74. -/
theorem decode_of_mustBeZero_ne (w : CmdWord) (hop : (opField w).toNat < 0x0A)
    (hz : w &&& mustBeZero (opField w).toNat ≠ 0) : decode w = .reservedField := by
  obtain ⟨hill, -⟩ | ⟨row, hrow, hrop, heq⟩ := decode_cases w
  · omega
  · rw [heq, if_neg]
    rwa [row_fits_iff w row hrow hrop, ← hrop]

/-- R77 for one opcode. -/
theorem reservedBitsRefused_of_lt (s : State) (op : Byte) (hop : op.toNat < 0x0A) :
    reservedBitsRefused s op (mustBeZero op.toNat) := by
  rintro w rfl hz
  exact wordRuns_of_cmdStep
    (cmdStep_of_reservedField Config.params s.engine w (decode_of_mustBeZero_ne w hop hz))

/-- Settles O5: a set must-be-zero bit fails the row's mask test, and so does the example's `B1`. -/
theorem reservedFieldIsAnsweredAndWritesNothing :
    Obligations.ReservedFieldIsAnsweredAndWritesNothing := fun s =>
  ⟨reservedBitsRefused_of_lt s,
    reservedBitsRefused_of_lt s 0x02 (by decide) 0x0210010000000000 (by decide) (by decide)⟩

/-! ### The assembler's words (R79) -/

@[simp] theorem fitsByte_iff (v : Int) : fitsByte v = true ↔ isU8 v := by simp [fitsByte]

@[simp] theorem fitsHalf_iff (v : Int) : fitsHalf v = true ↔ isHalf v := by
  simp only [fitsHalf, Bool.and_eq_true, decide_eq_true_iff]
  omega

theorem assembleCmd_of_wellFormed (c : AsmCmd) (h : c.wellFormed = true) :
    assembleCmd c = some (encode (asmInstr c)) := if_pos h

theorem assembleCmd_of_not_wellFormed (c : AsmCmd) (h : c.wellFormed = false) :
    assembleCmd c = none := if_neg (by simp [h])

/-- Where well-formedness is the range, a command is assembled exactly in range, to its encoding. -/
theorem assembles_of_wellFormed_iff {c : AsmCmd} {inRange : Prop}
    (h : c.wellFormed = true ↔ inRange) :
    assembles c inRange (encode (asmInstr c)) (asmInstr c) :=
  ⟨fun hin => ⟨assembleCmd_of_wellFormed c (h.mpr hin), decode_encode _⟩,
    fun hout => assembleCmd_of_not_wellFormed c (Bool.eq_false_iff.mpr (mt h.mp hout))⟩

/-- A number in the unsigned range of a width keeps its value. -/
theorem toNat_ofInt_of_lt (n : Nat) (v : Int) (h0 : 0 ≤ v) (h : v < 2 ^ n) :
    ((BitVec.ofInt n v).toNat : Int) = v := by
  rw [BitVec.toNat_ofInt, Int.emod_eq_of_lt h0 (by exact_mod_cast h), Int.toNat_of_nonneg h0]

/-- Settles O8: the checks of `wellFormed` are R79's ranges, and the encoder's words decode. -/
theorem assembledWordDecodesToTheCommand : Obligations.AssembledWordDecodesToTheCommand :=
  ⟨assembles_of_wellFormed_iff (iff_of_true rfl trivial),
    assembles_of_wellFormed_iff (iff_of_true rfl trivial),
    fun b => assembles_of_wellFormed_iff (fitsByte_iff b),
    fun i => assembles_of_wellFormed_iff (fitsByte_iff i),
    fun b => assembles_of_wellFormed_iff (fitsByte_iff b),
    fun f0 f1 f2 f3 f4 f5 => assembles_of_wellFormed_iff (by simp [AsmCmd.wellFormed, and_assoc]),
    assembles_of_wellFormed_iff (iff_of_true rfl trivial),
    assembles_of_wellFormed_iff (iff_of_true rfl trivial),
    fun idx enc stp => assembles_of_wellFormed_iff (by simp [AsmCmd.wellFormed, and_assoc]),
    fun r => assembles_of_wellFormed_iff (fitsByte_iff r),
    fun v hv => toNat_ofInt_of_lt 8 v hv.1 (Int.lt_add_one_of_le hv.2),
    signedPatternsRoundTrip.2,
    fun v h0 h => toNat_ofInt_of_lt 16 v h0 (Int.lt_add_one_of_le h),
    fun c hc => ⟨_, assembleCmd_of_wellFormed c hc, decode_encode _⟩,
    assembleCmd_of_not_wellFormed⟩

/-! ### Runs of a command list (R60, R80) -/

@[simp] theorem cmdStep_encode (p : Params) (e : Engine) (i : Instr) :
    cmdStep p e (encode i) = command p i e := by
  simp only [cmdStep, decode_encode]

/-- A step for each word runs them as `cmdRun` does and leaves the later moves waiting. -/
theorem core_run_commands (s : State) (hl : s.engine.legal = true) (ws : List CmdWord)
    (rest : List HostMove) :
    Sys2Proof.core.run ws.length (s.withMoves (ws.map .command ++ rest)) =
      .next { engine := (cmdRun Config.params s.engine ws).1, input := rest,
              responses := s.responses ++ (cmdRun Config.params s.engine ws).2 } := by
  induction ws generalizing s with
  | nil => simp [core_run_zero, cmdRun, State.withMoves]
  | cons w ws ih =>
    have hstep := stepIsTheStepRelation s w hl (ws.map .command ++ rest)
    have hrest := ih
      { s with
        engine := (cmdStep Config.params s.engine w).1
        responses := s.responses ++ [(cmdStep Config.params s.engine w).2] }
      (cmdStep_keeps_legal Config.params s.engine w hl)
    refine (core_run_succ _ _ ws.length hstep).trans ?_
    simpa [cmdRun, State.withMoves] using hrest

/-- The same for a list of commands, as the host sends them. -/
theorem core_run_moves (s : State) (hl : s.engine.legal = true) (is : List Instr)
    (rest : List HostMove) :
    Sys2Proof.core.run is.length (s.withMoves (moves is ++ rest)) =
      .next { engine := (cmdRun Config.params s.engine (is.map encode)).1, input := rest,
              responses := s.responses ++ (cmdRun Config.params s.engine (is.map encode)).2 } := by
  simpa [moves, Function.comp_def] using core_run_commands s hl (is.map encode) rest

/-! ### CRC.SEQ (R80, R102, R107) -/

/-- A CRC.STEP per byte folds the bytes into `ACC` and writes nothing else. -/
theorem cmdRun_crcSteps (p : Params) (e : Engine) (bs : List Byte) :
    (cmdRun p e ((bs.map Instr.crcStep).map encode)).1 =
      e.setAcc (bs.foldl (fun acc x => lookup e.table (x ^^^ acc)) e.acc) := by
  induction bs generalizing e with
  | nil => rfl
  | cons b bs ih =>
    simp only [List.map_cons, cmdRun, cmdStep_encode, command, crcStep, respond, ih]
    rfl

/-- CRC.INIT starts the fold of R102 at zero. -/
theorem cmdRun_crcSeq (p : Params) (e : Engine) (bs : List Byte) :
    (cmdRun p e ((crcSeq bs).map encode)).1 = e.setAcc (crc8 e.table bs) := by
  simp only [crcSeq, List.map_cons, cmdRun, cmdStep_encode, cmdRun_crcSteps]
  rfl

/-- Settles O24: the run is the fold of R102, one response per command. -/
theorem crcSeqLeavesTheChecksum : Obligations.CrcSeqLeavesTheChecksum := by
  intro s bs rest hl
  have hrun := core_run_moves s hl (crcSeq bs) rest
  have hlen : (crcSeq bs).length = bs.length + 1 := by simp [crcSeq]
  rw [hlen] at hrun
  exact ⟨_, hrun, cmdRun_crcSeq Config.params s.engine bs, rfl, _, rfl, by
    rw [length_cmdRun, List.length_map, hlen]⟩

/-! ### FRM.RECV (R80, R136, R137) -/

/-- The engine `e` with the bytes `f` in the buffer, `n` of them counted and no overflow. -/
def Engine.holding (e : Engine) (f : Vector Byte 6) (n : BitVec 3) : Engine :=
  { e with fbuf := f, fcount := n, fovf := false }

theorem Engine.holding_six (e : Engine) (f : Vector Byte 6) : e.holding f 6 = e.fillBuffer f := rfl

/-- A legal engine with an empty buffer has no overflow recorded. -/
theorem fovf_of_fcntLegal_zero : ∀ fovf : Bool, fcntLegal fovf 0 = true → fovf = false := by decide

theorem Engine.holding_zero (e : Engine) (hl : e.legal = true) (hc : e.fcount = 0) :
    e.holding e.fbuf 0 = e := by
  have hcnt : fcntLegal e.fovf 0 = true := hc ▸ (e.legal_iff.mp hl).1
  rw [Engine.holding, ← hc, ← fovf_of_fcntLegal_zero e.fovf hcnt]

/-- A push below 6 writes the byte that the count points at. -/
theorem frmPush_holding (b : Byte) (e : Engine) (f : Vector Byte 6) (n : BitVec 3)
    (h : n.toNat < 6) :
    frmPush b (e.holding f n) = (e.holding (f.set n.toNat b h) (n + 1),
      rspWord .ok 0x04 (zext16 (fcntView false (n + 1)))) := by
  obtain ⟨_, heq⟩ | ⟨hfull, -⟩ := frmPush_cases b (e.holding f n)
  · exact heq
  · exact absurd h hfull

theorem set_all_six (f : Vector Byte 6) (f0 f1 f2 f3 f4 f5 : Byte) :
    (((((f.set 0 f0).set 1 f1).set 2 f2).set 3 f3).set 4 f4).set 5 f5 =
      #v[f0, f1, f2, f3, f4, f5] := by
  ext k hk
  interval_cases k <;> simp

/-- Six pushes into an empty buffer fill it with their bytes. -/
theorem cmdRun_frmRecv (p : Params) (e : Engine) (f : Vector Byte 6) (f0 f1 f2 f3 f4 f5 : Byte) :
    cmdRun p (e.holding f 0) ((frmRecv f0 f1 f2 f3 f4 f5).map encode) =
      (e.fillBuffer #v[f0, f1, f2, f3, f4, f5],
        [0x00040001, 0x00040002, 0x00040003, 0x00040004, 0x00040005, 0x00040006]) := by
  rw [← set_all_six f, ← Engine.holding_six]
  simp (disch := decide) only [frmRecv, List.map, cmdRun, cmdStep_encode, command, frmPush_holding]
  rfl

/-- Settles O36: both leave the buffer filled with the six bytes. -/
theorem sixPushesEqualOneLoad : Obligations.SixPushesEqualOneLoad := by
  intro s f0 f1 f2 f3 f4 f5 rest hl hc
  have hrun := core_run_moves s hl (frmRecv f0 f1 f2 f3 f4 f5) rest
  rw [← s.engine.holding_zero hl hc, cmdRun_frmRecv] at hrun
  exact ⟨_, _, hrun, rfl, rfl, rfl, rfl⟩

/-! ### FRM.PARSE (R80, R135) -/

theorem isBreak_bytes_iff (p : Params) (f0 f1 f2 f3 f4 f5 : Byte) :
    isBreak p #v[f0, f1, f2, f3, f4, f5] = true ↔
      ∀ x ∈ [f0, f1, f2, f3, f4, f5], x = p.breakByte := by
  simp [isBreak]

theorem frameValid_bytes_iff (table : Vector Byte 256) (f0 f1 f2 f3 f4 f5 : Byte) :
    frameValid table #v[f0, f1, f2, f3, f4, f5] = true ↔ crc8 table [f0, f1, f2, f3, f4] = f5 :=
  beq_iff_eq

/-- A decode of a whole frame answers by its bytes, in the order of R135. -/
theorem frmDecode_response (p : Params) (e : Engine) (hlen : e.wrongLength = false) :
    (frmDecode p e).2 =
      if isBreak p e.fbuf = true then 0x07060009
      else if frameValid e.table e.fbuf = true then 0x00060007 else 0x06060003 := by
  obtain ⟨hwrong, -⟩ | ⟨-, hb, heq⟩ | ⟨-, hb, hv, heq⟩ | ⟨-, hb, hv, heq⟩ := frmDecode_cases p e
  · simp [hlen] at hwrong
  · rw [heq, if_pos hb]
    rfl
  · rw [heq, if_neg (Bool.eq_false_iff.mp hb), if_pos hv]
    rfl
  · rw [heq, if_neg (Bool.eq_false_iff.mp hb), if_neg (Bool.eq_false_iff.mp hv)]
    rfl

/-- FRM.LOAD makes the buffer whole, so FRM.DECODE answers by the six bytes loaded. -/
theorem cmdRun_frmParse_responses (p : Params) (e : Engine) (f0 f1 f2 f3 f4 f5 : Byte) :
    (cmdRun p e ((frmParse f0 f1 f2 f3 f4 f5).map encode)).2 = [0x00050006,
      if ∀ x ∈ [f0, f1, f2, f3, f4, f5], x = p.breakByte then 0x07060009
      else if crc8 e.table [f0, f1, f2, f3, f4] = f5 then 0x00060007 else 0x06060003] := by
  have hload : frmLoad f0 f1 f2 f3 f4 f5 e =
    (e.fillBuffer #v[f0, f1, f2, f3, f4, f5], 0x00050006) := rfl
  simp only [frmParse, List.map, cmdRun, cmdStep_encode, command, hload,
    frmDecode_response p (e.fillBuffer _) rfl, Engine.fillBuffer_fbuf, Engine.fillBuffer_table,
    isBreak_bytes_iff, frameValid_bytes_iff]

/-- Settles O37: the run is FRM.LOAD and FRM.DECODE, whose answers come from the bytes. -/
theorem frmParseAnswersFromItsBytesAlone : Obligations.FrmParseAnswersFromItsBytesAlone :=
  fun s f0 f1 f2 f3 f4 f5 rest hl =>
    ⟨_, core_run_moves s hl (frmParse f0 f1 f2 f3 f4 f5) rest, rfl,
      congrArg (s.responses ++ ·)
        (cmdRun_frmParse_responses Config.params s.engine f0 f1 f2 f3 f4 f5)⟩

end Sys2Proof.Machine

/-!
The CRC-8 engine (spec/40_crc_engine.md): the table as eight iterations of one linear map, the fold over
it, and the three commands on the accumulator and the table.
-/

namespace Sys2Proof.Machine

open Sys2Proof.Claims

/-! ### One iteration and the table entry (R100, R101) -/

/-- Lean's `Nat.repeat` is Mathlib's iteration. -/
theorem repeat_eq_iterate {α : Type} (f : α → α) (n : Nat) (a : α) : Nat.repeat f n a = f^[n] a := by
  induction n with
  | zero => rfl
  | succ n ih => rw [Function.iterate_succ_apply', ← ih]; rfl

theorem tableEntry_eq_iterate (poly v : Byte) : tableEntry poly v = (crcShift poly)^[8] v :=
  repeat_eq_iterate (crcShift poly) 8 v

theorem crcShift_of_high {c : Byte} (h : c.getLsbD 7 = true) (poly : Byte) :
    crcShift poly c = c <<< 1 ^^^ poly := if_pos h

theorem crcShift_of_low {c : Byte} (h : c.getLsbD 7 = false) (poly : Byte) :
    crcShift poly c = c <<< 1 := if_neg (Bool.eq_false_iff.mp h)

/-! ### Masking at the end (R101) -/

/-- `crcShift` on a candidate that is let grow to 16 bits. -/
def wideShift (poly : Byte) (c : BitVec 16) : BitVec 16 :=
  if c.getLsbD 7 then (c <<< 1) ^^^ poly.setWidth 16 else c <<< 1

/-- Masking before an iteration or after it is the same: the bits above bit 7 never move down. -/
theorem setWidth_wideShift (poly : Byte) (c : BitVec 16) :
    (wideShift poly c).setWidth 8 = crcShift poly (c.setWidth 8) := by
  have hbit : (c.setWidth 8).getLsbD 7 = c.getLsbD 7 := by simp
  have hshift : (c <<< 1).setWidth 8 = c.setWidth 8 <<< 1 :=
    BitVec.setWidth_shiftLeft_of_le (by decide)
  unfold wideShift
  cases hc : c.getLsbD 7
  · rw [crcShift_of_low (hbit.trans hc)]
    exact hshift
  · rw [crcShift_of_high (hbit.trans hc), ← hshift]
    exact BitVec.setWidth_xor.trans
      (congrArg (_ ^^^ ·) (BitVec.setWidth_setWidth_of_le poly (by decide)))

/-- Settles O16: masking takes each wide iteration to an iteration on bytes. -/
theorem maskingAtTheEndGivesTheSameEntry : Obligations.MaskingAtTheEndGivesTheSameEntry := by
  intro poly v
  have hmask : Function.Semiconj (BitVec.setWidth 8) (wideShift poly) (crcShift poly) :=
    setWidth_wideShift poly
  calc tableEntry poly v
      = (crcShift poly)^[8] ((v.setWidth 16).setWidth 8) := by
        rw [tableEntry_eq_iterate, BitVec.setWidth_setWidth_of_le v (by decide), BitVec.setWidth_eq]
    _ = ((wideShift poly)^[8] (v.setWidth 16)).setWidth 8 := (hmask.iterate_right 8 _).symm
    _ = (Nat.repeat (wideShift poly) 8 (v.setWidth 16)).setWidth 8 := by rw [repeat_eq_iterate]

/-! ### Linearity and permutation (R103) -/

/-- The polynomial enters a sum as often as it enters the summands, and twice is never. -/
theorem crcShift_xor (poly a b : Byte) :
    crcShift poly (a ^^^ b) = crcShift poly a ^^^ crcShift poly b := by
  have hbit : (a ^^^ b).getLsbD 7 = (a.getLsbD 7 ^^ b.getLsbD 7) := BitVec.getLsbD_xor
  have hshift : (a ^^^ b) <<< 1 = a <<< 1 ^^^ b <<< 1 := BitVec.shiftLeft_xor_distrib a b 1
  cases ha : a.getLsbD 7 <;> cases hb : b.getLsbD 7 <;> rw [ha, hb] at hbit
  · rw [crcShift_of_low hbit, crcShift_of_low ha, crcShift_of_low hb, hshift]
  · rw [crcShift_of_high hbit, crcShift_of_low ha, crcShift_of_high hb, hshift, BitVec.xor_assoc]
  · rw [crcShift_of_high hbit, crcShift_of_high ha, crcShift_of_low hb, hshift]
    ac_rfl
  · rw [crcShift_of_low hbit, crcShift_of_high ha, crcShift_of_high hb, hshift]
    calc a <<< 1 ^^^ b <<< 1
        = (a <<< 1 ^^^ b <<< 1) ^^^ (poly ^^^ poly) := by rw [BitVec.xor_self, BitVec.xor_zero]
      _ = (a <<< 1 ^^^ poly) ^^^ (b <<< 1 ^^^ poly) := by ac_rfl

/-- Eight linear iterations are linear. -/
theorem tableEntry_xor (poly a b : Byte) :
    tableEntry poly (a ^^^ b) = tableEntry poly a ^^^ tableEntry poly b := by
  have hlinear : Function.Semiconj₂ (crcShift poly) (· ^^^ ·) (· ^^^ ·) := crcShift_xor poly
  simpa only [tableEntry_eq_iterate] using hlinear.iterate 8 a b

/-- Settles O17: an entry is eight iterations of a linear map. -/
theorem tableIsLinear : Obligations.TableIsLinear := by
  intro poly a b
  simpa only [lookup_buildTable] using tableEntry_xor poly a b

/-- With bit 0 of the polynomial set, an iteration keeps in bit 0 the bit it shifts out. -/
theorem crcShift_getLsbD_zero {poly : Byte} (hpoly : poly.getLsbD 0 = true) (c : Byte) :
    (crcShift poly c).getLsbD 0 = c.getLsbD 7 := by
  cases hc : c.getLsbD 7
  · rw [crcShift_of_low hc]
    simp
  · rw [crcShift_of_high hc]
    simp [hpoly]

/-- With bit 0 of the polynomial set, an iteration takes no candidate but `0` to `0`. -/
theorem eq_zero_of_crcShift_eq_zero {poly c : Byte} (hpoly : poly.getLsbD 0 = true)
    (h : crcShift poly c = 0#8) : c = 0#8 := by
  have hlow : c.getLsbD 7 = false := by
    rw [← crcShift_getLsbD_zero hpoly, h]
    rfl
  have hshift : c <<< 1 = 0#8 := (crcShift_of_low hlow poly).symm.trans h
  have hlt : 2 * c.toNat < 2 ^ 8 := BitVec.msb_eq_false_iff_two_mul_lt.mp
    ((BitVec.msb_eq_getLsbD_last c).trans hlow)
  bv_omega

/-- A linear map without a kernel is injective. -/
theorem crcShift_injective {poly : Byte} (hpoly : poly.getLsbD 0 = true) :
    Function.Injective (crcShift poly) := by
  intro a b h
  have hsum : crcShift poly (a ^^^ b) = 0#8 := by rw [crcShift_xor, h, BitVec.xor_self]
  exact BitVec.xor_eq_zero_iff.mp (eq_zero_of_crcShift_eq_zero hpoly hsum)

/-- Settles O18: eight injective iterations are injective, and there are finitely many bytes. -/
theorem tableIsAPermutation : Obligations.TableIsAPermutation := by
  intro poly hpoly
  have hlookup : lookup (buildTable poly) = (crcShift poly)^[8] := by
    funext i
    rw [lookup_buildTable, tableEntry_eq_iterate]
  rw [hlookup]
  exact Finite.injective_iff_bijective.mp ((crcShift_injective hpoly).iterate 8)

/-! ### The fold (R102, R103) -/

/-- Candidate 1 reaches the high bit after seven shifts, and the eighth iteration reduces it. -/
theorem tableEntry_one (poly : Byte) : tableEntry poly 0x01 = poly := by
  simp [tableEntry, Nat.repeat, crcShift]

theorem crc8_singleton (table : Vector Byte 256) (x : Byte) : crc8 table [x] = lookup table x := by
  simp [crc8]

/-- A leading zero leaves the accumulator at zero. -/
theorem crc8_zero_cons (poly : Byte) (p : List Byte) :
    crc8 (buildTable poly) (0x00 :: p) = crc8 (buildTable poly) p := by
  simp [crc8]

/-- Settles O19: the general parts are one turn of the fold and the entries of 0 and 1; the order
example is evaluated. -/
theorem checksumFoldProperties : Obligations.ChecksumFoldProperties := by
  refine ⟨fun poly => crc8_nil _, fun poly => crc8_singleton _, fun poly => ⟨?_, ?_⟩, crc8_zero_cons,
    ?_, ?_⟩
  · exact (lookup_buildTable poly _).trans (tableEntry_zero poly)
  · exact (lookup_buildTable poly _).trans (tableEntry_one poly)
  · rw [crc8_buildTable]
    decide +kernel
  · rw [crc8_buildTable]
    decide +kernel

/-- Settles O20: the last byte meets an equal accumulator, and entry 0 is 0. -/
theorem ownChecksumFoldsToZero : Obligations.OwnChecksumFoldsToZero := by
  intro poly p
  rw [crc8_append_singleton, BitVec.xor_self, lookup_buildTable]
  exact tableEntry_zero poly

/-! ### The three commands (R106, R107, R108) -/

/-- A byte in the response's data field (R73). -/
theorem zext16_eq_append (b : Byte) : zext16 b = 0x00#8 ++ b := BitVec.setWidth_eq_append (by decide)

/-- A command's effect and response are what `exec` completes with. -/
theorem exec_of_command {i : Instr} {s : State} {e : Engine} {r : RspWord}
    (h : command Config.params i s.engine = (e, r)) :
    exec i s = .next { s with engine := e, responses := s.responses ++ [r] } := by
  rw [exec_eq_complete, h]
  rfl

/-- A command's effect and response are what its word does in a step. -/
theorem wordRuns_encode {i : Instr} {s : State} {e : Engine} {r : RspWord}
    (h : command Config.params i s.engine = (e, r)) : wordRuns s (encode i) e r :=
  wordRuns_of_cmdStep ((cmdStep_encode Config.params s.engine i).trans h)

/-- Settles O21: CRC.INIT, as a command and as its word. -/
theorem crcInitClearsTheAccumulator : Obligations.CrcInitClearsTheAccumulator := by
  intro s e
  have hcmd : command Config.params .crcInit s.engine = (e, 0x00010000) := rfl
  exact ⟨exec_of_command hcmd, wordRuns_encode hcmd, reservedBitsRefused_of_lt s 0x01 (by decide)⟩

/-- R107 with the response word written out. -/
theorem command_crcStep (p : Params) (b : Byte) (e : Engine) :
    command p (.crcStep b) e = (e.setAcc (lookup e.table (b ^^^ e.acc)),
      0x00#8 ++ 0x02#8 ++ (0x00#8 ++ lookup e.table (b ^^^ e.acc))) := by
  rw [← zext16_eq_append (lookup _ _)]
  rfl

/-- Settles O22: one CRC.STEP is one turn of the fold; a byte equal to `ACC` looks up entry 0. -/
theorem crcStepFoldsOneByte : Obligations.CrcStepFoldsOneByte := by
  intro s b acc e r
  have hcmd : command Config.params (.crcStep b) s.engine = (e, r) :=
    command_crcStep Config.params b s.engine
  refine ⟨exec_of_command hcmd, wordRuns_encode (i := .crcStep b) hcmd, reservedBitsRefused_of_lt s 0x02 (by decide),
    fun htable => ⟨fun hb => ?_, fun hacc hb => ?_⟩, fun bs => ?_⟩
  · simp only [acc, htable, hb, BitVec.xor_self, lookup_buildTable]
    exact tableEntry_zero 0x83
  · simp only [acc, htable, hb, hacc, lookup_buildTable]
    decide
  · have hwords : (0x0100000000000000 :: bs.map fun x => 0x02#8 ++ x ++ 0#48) =
        (crcSeq bs).map encode := by
      simp only [crcSeq, List.map_cons, List.map_map]
      rfl
    rw [hwords, cmdRun_crcSeq]
    rfl

/-- R108 with the response word written out. -/
theorem command_tblRead (p : Params) (i : Byte) (e : Engine) :
    command p (.tblRead i) e = (e, 0x00#8 ++ 0x03#8 ++ (0x00#8 ++ lookup e.table i)) := by
  rw [← zext16_eq_append (lookup _ _)]
  rfl

/-- Settles O23: TBL.READ, as a command and as its word; its three corners are entries of `0x83`. -/
theorem tblReadAnswersTheEntry : Obligations.TblReadAnswersTheEntry := by
  intro s i r
  have hcmd : command Config.params (.tblRead i) s.engine = (s.engine, r) :=
    command_tblRead Config.params i s.engine
  refine ⟨exec_of_command hcmd, wordRuns_encode (i := .tblRead i) hcmd, reservedBitsRefused_of_lt s 0x03 (by decide),
    fun htable => ?_⟩
  simp only [r, htable, lookup_buildTable]
  refine ⟨?_, ?_, ?_⟩ <;>
    · rintro rfl
      decide

/-! ### The frame is out of the CRC commands' reach (R106, R107, R108) -/

/-- Writing what `ACC` holds changes nothing. -/
theorem Engine.setAcc_self (e : Engine) : e.setAcc e.acc = e := rfl

/-- From engines that agree on `ACC` and `TABLE` a CRC command gives one response, and each engine
changes in `ACC` alone, to the same value. -/
theorem command_crc_congr (p : Params) (i : Instr) (hi : opcodeOf i ∈ [0x01#8, 0x02#8, 0x03#8])
    {e₁ e₂ : Engine} (hacc : e₁.acc = e₂.acc) (htable : e₁.table = e₂.table) :
    command p i e₂ = (e₂.setAcc (command p i e₁).1.acc, (command p i e₁).2) := by
  cases i with
  | crcInit => rfl
  | crcStep b => simp [command_crcStep, hacc, htable]
  | tblRead k => simp [command_tblRead, hacc, htable, Engine.setAcc_self]
  | _ => simp [opcodeOf] at hi

/-- Settles O48: the commands' meanings depend on `ACC` and `TABLE` alone. -/
theorem crcCommandsIgnoreTheFrame : Obligations.CrcCommandsIgnoreTheFrame := by
  intro i s₁ s₂ t₁ hi hacc htable h
  rw [exec_eq_complete, complete_eq_next_iff] at h
  subst h
  exact ⟨_, rfl, exec_of_command (command_crc_congr Config.params i hi hacc htable)⟩

end Sys2Proof.Machine

/-!
The frame codec (spec/41_frame_codec.md): the field extractor, the five frame commands with their paths
and their round trip, and the bit errors that the checksum finds.
-/

namespace Sys2Proof.Machine

open Sys2Proof.Claims

/-! ### The field extractor (R131) -/

/-- The sign lies in the high byte: below `0x80` the low byte is added to `256 * hi`, and from `0x80` on
the high byte counts from -128. -/
theorem s16_beHalf (hi lo : Byte) :
    s16 (beHalf hi lo) = if hi.toNat < 0x80 then 256 * (hi.toNat : Int) + lo.toNat
      else 256 * (hi.toNat : Int) + lo.toNat - 65536 := by
  have happend : (hi ++ lo).toInt = 256 * hi.toInt + lo.toNat := BitVec.toInt_append
  rw [s16_eq_toInt, beHalf, happend, BitVec.toInt_eq_toNat_cond]
  split <;> split <;> omega

/-- Settles O25: the fields are bytes of the frame, and `s16_beHalf` reads the two signed ones. -/
theorem fieldExtractorIsBigEndianSigned : Obligations.FieldExtractorIsBigEndianSigned :=
  ⟨fun _ => ⟨rfl, rfl, rfl, s16_beHalf _ _, rfl, s16_beHalf _ _⟩,
    by decide, by decide, by decide, by decide, by decide⟩

theorem toList_eq_bytes (f : Vector Byte 6) :
    f.toList = [f[0], f[1], f[2], f[3], f[4], f[5]] := by
  refine List.ext_getElem (by simp) fun k hk _ => ?_
  rw [Vector.length_toList] at hk
  interval_cases k <;> rfl

/-! ### FRM.DECODE, path by path (R138) -/

theorem Engine.wrongLength_iff (e : Engine) :
    e.wrongLength = true ↔ e.fcount ≠ 6 ∨ e.fovf = true := by
  simp [Engine.wrongLength]

theorem Engine.wrongLength_of_full {e : Engine} (hcount : e.fcount = 6) (hovf : e.fovf = false) :
    e.wrongLength = false := by
  simp [Engine.wrongLength, hcount, hovf]

theorem isBreak_iff_holdsBreak (e : Engine) :
    isBreak Config.params e.fbuf = true ↔ holdsBreak e := isBreak_iff Config.params e.fbuf

theorem isBreak_of_not_holdsBreak {e : Engine} (h : ¬ holdsBreak e) :
    isBreak Config.params e.fbuf = false :=
  Bool.eq_false_iff.mpr (mt (isBreak_iff_holdsBreak e).mp h)

theorem frameValid_iff_bufferCrc (e : Engine) :
    frameValid e.table e.fbuf = true ↔ bufferCrc e = e.fbuf[5] := beq_iff_eq

/-- The answer with the new `FSTAT`, which is known (R138). -/
theorem respond_setFstat (st : Status) (e : Engine) (f : BitVec 5) :
    respond 0x06 st (e.setFstat f).fstatData (e.setFstat f) =
      (e.setFstat f, rspWord st 0x06 (zext16 (fstatView f))) := rfl

section
variable (p : Params) {e : Engine}

theorem frmDecode_of_wrongLength (hlen : e.wrongLength = true) :
    frmDecode p e = (e.emptyBuffer.setFstat fstatLength, 0x04060011) := by
  simp only [frmDecode, hlen, if_true, respond_setFstat]
  rfl

theorem frmDecode_of_break (hlen : e.wrongLength = false) (hbreak : isBreak p e.fbuf = true) :
    frmDecode p e = (e.emptyBuffer.setFstat fstatSentinel, 0x07060009) := by
  simp only [frmDecode, hlen, hbreak, Bool.false_eq_true, if_false, if_true, respond_setFstat]
  rfl

theorem frmDecode_of_valid (hlen : e.wrongLength = false) (hbreak : isBreak p e.fbuf = false)
    (hvalid : frameValid e.table e.fbuf = true) :
    frmDecode p e = (e.extractFrame.emptyBuffer.setFstat fstatValid, 0x00060007) := by
  simp only [frmDecode, hlen, hbreak, hvalid, Bool.false_eq_true, if_false, if_true, respond_setFstat]
  rfl

theorem frmDecode_of_mismatch (hlen : e.wrongLength = false) (hbreak : isBreak p e.fbuf = false)
    (hvalid : frameValid e.table e.fbuf = false) :
    frmDecode p e = (e.extractFrame.emptyBuffer.setFstat fstatMismatch, 0x06060003) := by
  simp only [frmDecode, hlen, hbreak, hvalid, Bool.false_eq_true, if_false, respond_setFstat]
  rfl

end

/-- A command that completed did what `command` says. -/
theorem command_eq_of_exec {i : Instr} {s t : State} {r : RspWord} (h : exec i s = .next t)
    (hr : t.responses = s.responses ++ [r]) :
    command Config.params i s.engine = (t.engine, r) := by
  rw [exec_eq_complete, complete_eq_next_iff] at h
  subst h
  exact Prod.ext rfl (List.singleton_inj.mp (List.append_cancel_left hr))

/-- Settles O29: the guards of the rule are the model's three tests. -/
theorem frmDecodeFollowsItsFourPaths : Obligations.FrmDecodeFollowsItsFourPaths := by
  intro s
  refine ⟨fun hlen => ?_, fun hcount hovf hbreak => ?_, fun hcount hovf hbreak hcrc => ?_,
    fun hcount hovf hbreak hcrc => ?_,
    fun t r h hr => wordRuns_encode (i := .frmDecode) (command_eq_of_exec h hr),
    reservedBitsRefused_of_lt s 0x06 (by decide)⟩
  · exact exec_of_command (i := .frmDecode)
      (frmDecode_of_wrongLength _ (s.engine.wrongLength_iff.mpr hlen))
  · exact exec_of_command (i := .frmDecode) (frmDecode_of_break _
      (Engine.wrongLength_of_full hcount hovf) ((isBreak_iff_holdsBreak _).mpr hbreak))
  · exact exec_of_command (i := .frmDecode) (frmDecode_of_valid _
      (Engine.wrongLength_of_full hcount hovf) (isBreak_of_not_holdsBreak hbreak)
      ((frameValid_iff_bufferCrc _).mpr hcrc))
  · exact exec_of_command (i := .frmDecode) (frmDecode_of_mismatch _
      (Engine.wrongLength_of_full hcount hovf) (isBreak_of_not_holdsBreak hbreak)
      (Bool.eq_false_iff.mpr (mt (frameValid_iff_bufferCrc _).mp hcrc)))

/-! ### FRM.DECODE, corner cases (R138, R142) -/

/-- Without exactly six bytes a decode answers FORMAT_ERROR. -/
theorem exec_frmDecode_of_wrongLength (t : State) (hlen : t.engine.wrongLength = true) :
    ∃ u, exec .frmDecode t = .next u ∧ u.responses = t.responses ++ [0x04060011] :=
  ⟨_, exec_of_command (i := .frmDecode) (frmDecode_of_wrongLength _ hlen), rfl⟩

/-- With exactly six bytes a decode answers by the bytes. -/
theorem exec_frmDecode_of_full (s : State) (hlen : s.engine.wrongLength = false) :
    exec .frmDecode s = .next { s with
      engine := (frmDecode Config.params s.engine).1
      responses := s.responses ++ [
        if isBreak Config.params s.engine.fbuf = true then 0x07060009
        else if frameValid s.engine.table s.engine.fbuf = true then 0x00060007 else 0x06060003] } :=
  exec_of_command (i := .frmDecode) (Prod.ext rfl (frmDecode_response Config.params s.engine hlen))

/-- Every path of a decode consumes the buffer. -/
theorem frmDecode_wrongLength (p : Params) (e : Engine) : (frmDecode p e).1.wrongLength = true := by
  obtain ⟨-, heq⟩ | ⟨-, -, heq⟩ | ⟨-, -, -, heq⟩ | ⟨-, -, -, heq⟩ := frmDecode_cases p e <;>
    rw [heq] <;> rfl

/-- A frame with two unequal bytes is no sentinel, whatever the break byte. -/
theorem isBreak_of_ne (p : Params) (f : Vector Byte 6) (h : f[0] ≠ f[2]) : isBreak p f = false := by
  refine Bool.eq_false_iff.mpr fun hbreak => h ?_
  have hall := (isBreak_iff p f).mp hbreak
  exact (hall 0 (by decide)).trans (hall 2 (by decide)).symm

theorem isBreak_identical_iff (p : Params) (x : Byte) :
    isBreak p #v[x, x, x, x, x, x] = true ↔ x = p.breakByte := by
  rw [isBreak_bytes_iff]
  simp

theorem frameValid_zeros : frameValid (buildTable 0x83) #v[0, 0, 0, 0, 0, 0] = true :=
  (frameValid_bytes_iff ..).mpr (crc8_buildTable_replicate_zero 0x83 5)

/-- Settles O30: a decode and a reset leave the buffer empty; the two frames validate. -/
theorem frmDecodeCornerCases : Obligations.FrmDecodeCornerCases := by
  refine ⟨fun s t h => ?_, ?_, fun s htable hcount hovf => ⟨fun hbuf => ?_, fun hbuf => ?_⟩⟩
  · rw [exec_eq_complete, complete_eq_next_iff] at h
    subst h
    exact exec_frmDecode_of_wrongLength _ (frmDecode_wrongLength Config.params s.engine)
  · exact exec_frmDecode_of_wrongLength State.reset (by decide)
  · refine ⟨_, exec_frmDecode_of_full s (Engine.wrongLength_of_full hcount hovf), ?_⟩
    simp only [hbuf, htable, isBreak_identical_iff, Config.params_breakByte, frameValid_zeros, if_true,
      eq_comm (a := Config.breakByte)]
  · have hcalc : frameCrcCalc s.engine.table s.engine.fbuf = 0x44 := by
      rw [frameCrcCalc, htable, hbuf, crc8_buildTable]
      decide +kernel
    have hrecv : frameCrcRecv s.engine.fbuf = 0x44 := congrArg frameCrcRecv hbuf
    have hvalid : frameValid s.engine.table s.engine.fbuf = true :=
      beq_iff_eq.mpr (hcalc.trans hrecv.symm)
    have hbreak : isBreak Config.params s.engine.fbuf = false :=
      isBreak_of_ne _ _ (by rw [hbuf]; decide)
    exact ⟨_, exec_of_command (i := .frmDecode)
      (frmDecode_of_valid _ (Engine.wrongLength_of_full hcount hovf) hbreak hvalid), rfl,
      congrArg frameIndex hbuf, congrArg frameEncoder hbuf, congrArg frameStepper hbuf, hcalc,
      hrecv, rfl⟩

/-! ### FRM.PUSH, FRM.LOAD, FRM.CLEAR and FRM.ENCODE (R136, R137, R139, R140) -/

/-- R136 below six bytes, with the response word written out. -/
theorem command_frmPush_of_lt (p : Params) (b : Byte) (e : Engine) (h : e.fcount.toNat < 6) :
    command p (.frmPush b) e =
      ({ e with fbuf := e.fbuf.set e.fcount.toNat b h, fcount := e.fcount + 1 },
        0x00#8 ++ 0x04#8 ++ (0x00#8 ++ (BitVec.ofBool e.fovf ++ 0b0000#4 ++ (e.fcount + 1)))) := by
  obtain ⟨_, heq⟩ | ⟨hfull, -⟩ := frmPush_cases b e
  · rw [zext16_eq_append] at heq
    exact heq
  · exact absurd h hfull

/-- R136 on a full buffer. -/
theorem command_frmPush_of_full (p : Params) (b : Byte) (e : Engine) (h : e.fcount = 6) :
    command p (.frmPush b) e = ({ e with fovf := true }, 0x05040086) := by
  obtain ⟨hlt, -⟩ | ⟨-, heq⟩ := frmPush_cases b e
  · exact absurd hlt (by rw [h]; decide)
  · refine heq.trans (Prod.ext rfl ?_)
    rw [h]
    rfl

/-- Settles O27: the two branches of `frmPush`; an overflow is a wrong length for the next decode. -/
theorem frmPushAppendsOrOverflows : Obligations.FrmPushAppendsOrOverflows := by
  refine fun s b => ⟨fun hlt => ?_, fun hfull => ?_, reservedBitsRefused_of_lt s 0x04 (by decide)⟩
  · have hcmd := command_frmPush_of_lt Config.params b s.engine hlt
    exact ⟨exec_of_command hcmd, wordRuns_encode (i := .frmPush b) hcmd⟩
  · have hcmd := command_frmPush_of_full Config.params b s.engine hfull
    exact ⟨exec_of_command hcmd, wordRuns_encode (i := .frmPush b) hcmd,
      exec_frmDecode_of_wrongLength _ ((Engine.wrongLength_iff _).mpr (.inr rfl))⟩

theorem command_frmLoad (p : Params) (f0 f1 f2 f3 f4 f5 : Byte) (e : Engine) :
    command p (.frmLoad f0 f1 f2 f3 f4 f5) e =
      (e.fillBuffer #v[f0, f1, f2, f3, f4, f5], 0x00050006) := rfl

/-- Settles O28: FRM.LOAD, as a command and as its word. -/
theorem frmLoadFillsTheBuffer : Obligations.FrmLoadFillsTheBuffer := by
  intro s f0 f1 f2 f3 f4 f5 e
  have hcmd : command Config.params (.frmLoad f0 f1 f2 f3 f4 f5) s.engine = (e, 0x00050006) :=
    command_frmLoad ..
  exact ⟨exec_of_command hcmd, wordRuns_encode (i := .frmLoad f0 f1 f2 f3 f4 f5) hcmd,
    reservedBitsRefused_of_lt s 0x05 (by decide)⟩

/-- Settles O31: FRM.CLEAR, as a command and as its word; no bytes are left for the next decode. -/
theorem frmClearDiscardsTheFrame : Obligations.FrmClearDiscardsTheFrame := by
  intro s e t
  have hcmd : command Config.params .frmClear s.engine = (e, 0x00070000) := rfl
  exact ⟨exec_of_command hcmd, wordRuns_encode (i := .frmClear) hcmd,
    reservedBitsRefused_of_lt s 0x07 (by decide),
    exec_frmDecode_of_wrongLength t ((Engine.wrongLength_iff e).mpr (.inl (by simp [e])))⟩

/-- R140 with the response word written out. -/
theorem command_frmEncode (p : Params) (idx : Byte) (enc stp : Half) (e : Engine) :
    command p (.frmEncode idx enc stp) e = (e.fillBuffer (frameOf e.table idx enc stp),
      0x00#8 ++ 0x08#8 ++ (0x00#8 ++ crc8 e.table (payloadOf idx enc stp))) := by
  rw [← zext16_eq_append (crc8 _ _)]
  rfl

/-- Settles O32: FRM.ENCODE, as a command and as its word; the example is evaluated. -/
theorem frmEncodeBuildsTheFrame : Obligations.FrmEncodeBuildsTheFrame := by
  intro s idx enc stp p c e r
  have hcmd : command Config.params (.frmEncode idx enc stp) s.engine = (e, r) :=
    command_frmEncode Config.params idx enc stp s.engine
  refine ⟨exec_of_command hcmd, wordRuns_encode (i := .frmEncode idx enc stp) hcmd,
    reservedBitsRefused_of_lt s 0x08 (by decide), ?_⟩
  rintro htable rfl rfl rfl
  simp only [r, c, p, htable, crc8_buildTable]
  decide +kernel

/-! ### A buffer filled and decoded (R141, R142) -/

theorem beHalf_hiByte_loByte (v : Half) : beHalf (hiByte v) (loByte v) = v :=
  append_extractLsb' (a := 8) (b := 8) v

theorem frameEncoder_frameOf (table : Vector Byte 256) (idx : Byte) (enc stp : Half) :
    frameEncoder (frameOf table idx enc stp) = enc := beHalf_hiByte_loByte enc

theorem frameStepper_frameOf (table : Vector Byte 256) (idx : Byte) (enc stp : Half) :
    frameStepper (frameOf table idx enc stp) = stp := beHalf_hiByte_loByte stp

theorem frameCrcRecv_frameOf (table : Vector Byte 256) (idx : Byte) (enc stp : Half) :
    frameCrcRecv (frameOf table idx enc stp) = crc8 table (payloadOf idx enc stp) := rfl

theorem frameValid_frameOf (table : Vector Byte 256) (idx : Byte) (enc stp : Half) :
    frameValid table (frameOf table idx enc stp) = true := (frameValid_bytes_iff ..).mpr rfl

/-- A command that fills the buffer with a valid frame that is no sentinel, then FRM.DECODE: the second
answer is OK, and the fields are those of the frame. -/
theorem core_run_fill_decode (s : State) (hl : s.engine.legal = true) {i : Instr} {f : Vector Byte 6}
    {r : RspWord} (hfill : command Config.params i s.engine = (s.engine.fillBuffer f, r))
    (hbreak : isBreak Config.params f = false) (hvalid : frameValid s.engine.table f = true)
    (rest : List HostMove) :
    Sys2Proof.core.run 2 (s.withMoves (moves [i, .frmDecode] ++ rest)) =
      .next { engine := (s.engine.fillBuffer f).extractFrame.emptyBuffer.setFstat fstatValid,
              input := rest, responses := s.responses ++ [r, 0x00060007] } := by
  have hdecode : command Config.params .frmDecode (s.engine.fillBuffer f) =
      ((s.engine.fillBuffer f).extractFrame.emptyBuffer.setFstat fstatValid, 0x00060007) :=
    frmDecode_of_valid Config.params rfl hbreak hvalid
  have hrun := core_run_moves s hl [i, .frmDecode] rest
  simp only [List.map, cmdRun, cmdStep_encode, hfill, hdecode] at hrun
  exact hrun

/-- The four bytes `x` for which six bytes `x` validate (R142), all 256 evaluated. -/
theorem crc8_identical_iff : ∀ x : Byte,
    crc8 (buildTable 0x83) [x, x, x, x, x] = x ↔ x ∈ [0x00#8, 0x7F#8, 0x81#8, 0xFE#8] := by
  simp only [crc8_buildTable]
  decide +kernel

/-- Settles O33: a constructed frame validates and its fields are the operands; one of six bytes `x` has
`x` as the checksum of five. -/
theorem encodeThenDecodeGivesTheFieldsBack : Obligations.EncodeThenDecodeGivesTheFieldsBack := by
  refine ⟨fun s idx enc stp rest hl hne => ?_, fun s f0 f1 f2 f3 f4 rest hl hne => ?_,
    fun x idx enc stp hall => ?_⟩
  · have hvalid := frameValid_frameOf s.engine.table idx enc stp
    have hrun := core_run_fill_decode s hl (command_frmEncode Config.params idx enc stp s.engine)
      (Bool.eq_false_iff.mpr (mt (isBreak_iff _ _).mp hne)) hvalid rest
    exact ⟨_, _, hrun, rfl, rfl, rfl, frameEncoder_frameOf .., frameStepper_frameOf ..,
      (frameValid_iff (s.engine.fillBuffer _)).mp hvalid⟩
  · have hvalid := (frameValid_bytes_iff s.engine.table f0 f1 f2 f3 f4 _).mpr rfl
    have hrun := core_run_fill_decode s hl (command_frmLoad Config.params f0 f1 f2 f3 f4 _ s.engine)
      (Bool.eq_false_iff.mpr (mt (isBreak_bytes_iff ..).mp hne)) hvalid rest
    exact ⟨_, hrun, rfl, rfl, rfl, rfl, rfl, (frameValid_iff (s.engine.fillBuffer _)).mp hvalid⟩
  · have hpayload : payloadOf idx enc stp = [x, x, x, x, x] := by
      simp only [payloadOf, List.cons.injEq, and_true]
      exact ⟨hall 0 (by decide), hall 1 (by decide), hall 2 (by decide), hall 3 (by decide),
        hall 4 (by decide)⟩
    have hcrc := (frameCrcRecv_frameOf (buildTable 0x83) idx enc stp).symm.trans (hall 5 (by decide))
    exact (crc8_identical_iff x).mp (hpayload ▸ hcrc)

/-- Settles O34: FRM.LOAD fills the buffer, and FRM.DECODE tests the break byte before the checksum. -/
theorem allIdenticalFramesAndTheSentinel : Obligations.AllIdenticalFramesAndTheSentinel := by
  refine fun x => ⟨crc8_identical_iff x, fun s htable => ?_⟩
  refine ⟨_, _, exec_of_command (command_frmLoad Config.params x x x x x x s.engine),
    exec_frmDecode_of_full _ rfl, ?_⟩
  simp only [Engine.fillBuffer_fbuf, Engine.fillBuffer_table, htable, isBreak_identical_iff,
    Config.params_breakByte, frameValid_bytes_iff, crc8_identical_iff, List.append_assoc,
    List.singleton_append]
  refine ⟨fun hx => ?_, fun hx hmem => ?_, fun hx hmem => ?_⟩
  · rw [if_pos hx]
  · rw [if_neg hx, if_pos hmem]
  · rw [if_neg hx, if_neg hmem]

/-! ### The results in the source's terms (R144) -/

theorem sampleView_extractFrame (e : Engine) (f : BitVec 5) (hframe : fstatFrame f = true) :
    sampleView (e.extractFrame.emptyBuffer.setFstat f) = some
      { index := frameIndex e.fbuf
        encoderDelta := s16 (frameEncoder e.fbuf)
        stepperDelta := s16 (frameStepper e.fbuf)
        goodCrc := fstatCrcOk f
        expectedCrc := frameCrcCalc e.table e.fbuf
        rawBytes := e.fbuf.toList } := if_pos hframe

/-- Settles O38: both extraction paths record the fields, and `FSTAT.CRC_OK` tells them apart. -/
theorem resultsInTheSourcesTerms : Obligations.ResultsInTheSourcesTerms := by
  intro s t hcount hovf hbreak h
  have hlen := Engine.wrongLength_of_full hcount hovf
  have hb := isBreak_of_not_holdsBreak hbreak
  rw [exec_eq_complete, complete_eq_next_iff] at h
  subst h
  rw [← toList_eq_bytes]
  by_cases hcrc : bufferCrc s.engine = s.engine.fbuf[5]
  · have hcmd := frmDecode_of_valid Config.params hlen hb ((frameValid_iff_bufferCrc _).mpr hcrc)
    simp only [command, hcmd, decide_eq_true hcrc]
    exact sampleView_extractFrame s.engine fstatValid rfl
  · have hcmd := frmDecode_of_mismatch Config.params hlen hb
      (Bool.eq_false_iff.mpr (mt (frameValid_iff_bufferCrc _).mp hcrc))
    simp only [command, hcmd, decide_eq_false hcrc]
    exact sampleView_extractFrame s.engine fstatMismatch rfl

/-! ### The accumulator is out of the frame commands' reach (R133, R237) -/

theorem frmPush_setAcc (b : Byte) (e : Engine) (a : Byte) :
    frmPush b (e.setAcc a) = ((frmPush b e).1.setAcc a, (frmPush b e).2) := by
  have hpush : (e.setAcc a).pushByte b = (e.pushByte b).setAcc a := by
    by_cases h : e.fcount.toNat < 6
    · rw [pushByte_of_lt e b h]
      exact pushByte_of_lt (e.setAcc a) b h
    · rw [pushByte_of_full e b h]
      exact pushByte_of_full (e.setAcc a) b h
  simp only [frmPush, hpush]
  rfl

/-- The three tests of a decode and its writes are on other registers. -/
theorem frmDecode_setAcc (p : Params) (e : Engine) (a : Byte) :
    frmDecode p (e.setAcc a) = ((frmDecode p e).1.setAcc a, (frmDecode p e).2) := by
  obtain ⟨hlen, heq⟩ | ⟨hlen, hb, heq⟩ | ⟨hlen, hb, hv, heq⟩ | ⟨hlen, hb, hv, heq⟩ :=
    frmDecode_cases p e <;> rw [heq]
  · exact frmDecode_of_wrongLength p (e := e.setAcc a) hlen
  · exact frmDecode_of_break p (e := e.setAcc a) hlen hb
  · exact frmDecode_of_valid p (e := e.setAcc a) hlen hb hv
  · exact frmDecode_of_mismatch p (e := e.setAcc a) hlen hb hv

theorem command_frame_setAcc (p : Params) (i : Instr)
    (hi : opcodeOf i ∈ [0x04#8, 0x05#8, 0x06#8, 0x07#8, 0x08#8]) (e : Engine) (a : Byte) :
    command p i (e.setAcc a) = ((command p i e).1.setAcc a, (command p i e).2) := by
  cases i with
  | frmPush b => exact frmPush_setAcc b e a
  | frmDecode => exact frmDecode_setAcc p e a
  | frmLoad | frmClear | frmEncode => rfl
  | _ => simp [opcodeOf] at hi

/-- Settles O47: each frame command commutes with a replacement of `ACC`. -/
theorem frameCommandsIgnoreTheAccumulator : Obligations.FrameCommandsIgnoreTheAccumulator := by
  intro i s t a hi h
  rw [exec_eq_complete, complete_eq_next_iff] at h
  subst h
  exact exec_of_command (s := { s with engine := s.engine.setAcc a })
    (command_frame_setAcc Config.params i hi s.engine a)

/-! ### Bit errors (R143) -/

/-- The fold of a whole frame, checksum included, over the table of `POLY`. -/
def residue (f : Vector Byte 6) : Byte := crc8 (buildTable 0x83) f.toList

/-- A frame validates when its residue is zero: entry 0 is the one entry that is 0 (R103). -/
theorem frameValid_iff_residue (f : Vector Byte 6) :
    frameValid (buildTable 0x83) f = true ↔ residue f = 0#8 := by
  have hentry := (tableIsAPermutation 0x83 (by decide)).injective
  have hzero : lookup (buildTable 0x83) 0#8 = 0#8 :=
    (lookup_buildTable 0x83 0#8).trans (tableEntry_zero 0x83)
  have hresidue : residue f =
      lookup (buildTable 0x83) (f[5] ^^^ frameCrcCalc (buildTable 0x83) f) := by
    rw [residue, toList_eq_bytes]
    exact crc8_append_singleton (buildTable 0x83) (framePayload f) f[5]
  calc frameValid (buildTable 0x83) f = true
      ↔ frameCrcCalc (buildTable 0x83) f = f[5] := beq_iff_eq
    _ ↔ f[5] ^^^ frameCrcCalc (buildTable 0x83) f = 0#8 := by
        rw [eq_comm]
        exact BitVec.xor_eq_zero_iff.symm
    _ ↔ residue f = 0#8 := by rw [hresidue, ← hentry.eq_iff, hzero]

/-- The fold is linear in the accumulator and the bytes together (R103). -/
theorem foldl_tableEntry_xor (poly : Byte) (a b : List Byte) (h : a.length = b.length) (x y : Byte) :
    (List.zipWith (· ^^^ ·) a b).foldl (fun acc c => tableEntry poly (c ^^^ acc)) (x ^^^ y) =
      a.foldl (fun acc c => tableEntry poly (c ^^^ acc)) x ^^^
        b.foldl (fun acc c => tableEntry poly (c ^^^ acc)) y := by
  induction a generalizing b x y with
  | nil =>
    obtain rfl : b = [] := List.length_eq_zero_iff.mp h.symm
    rfl
  | cons c a ih =>
    obtain ⟨d, b, rfl⟩ := List.exists_cons_of_length_eq_add_one h.symm
    have hswap : (c ^^^ d) ^^^ (x ^^^ y) = (c ^^^ x) ^^^ (d ^^^ y) := by ac_rfl
    simp only [List.zipWith_cons_cons, List.foldl_cons, hswap]
    rw [tableEntry_xor]
    exact ih b (Nat.succ.inj h) _ _

/-- Bit `i` of a frame, alone. -/
def oneBit (i : Nat) : Vector Byte 6 := flipBit (Vector.replicate 6 0x00) i

theorem flipBit_eq_xor (f : Vector Byte 6) (i : Nat) :
    flipBit f i = Vector.zipWith (· ^^^ ·) f (oneBit i) := by
  ext k hk
  simp only [oneBit, flipBit, Vector.getElem_ofFn, Vector.getElem_zipWith]
  split <;> simp

theorem residue_flipBit (f : Vector Byte 6) (i : Nat) :
    residue (flipBit f i) = residue f ^^^ residue (oneBit i) := by
  simp only [residue, crc8_buildTable, flipBit_eq_xor, Vector.toList_zipWith]
  exact foldl_tableEntry_xor 0x83 _ _ (by simp) 0x00 0x00

/-- Bit `i` is passed by `55 - i` iterations after the candidate 1: eight for each byte from its own on,
and one for each place that it stands above bit 0 of its byte. Evaluated for each of the 48 bits. -/
theorem residue_oneBit : ∀ i < 48, residue (oneBit i) = (crcShift 0x83)^[55 - i] 0x01 := by
  simp only [residue, crc8_buildTable]
  decide +kernel

theorem crcShift_iterate_injective (n : Nat) : Function.Injective (crcShift 0x83)^[n] :=
  (crcShift_injective (by decide)).iterate n

theorem residue_oneBit_ne_zero {i : Nat} (hi : i < 48) : residue (oneBit i) ≠ 0#8 := by
  rw [residue_oneBit i hi, ← Function.iterate_fixed (crcShift_zero 0x83) (55 - i)]
  exact (crcShift_iterate_injective _).ne (by decide)

/-- The candidate 1 comes back after every 14 iterations, and below 48 not otherwise. -/
theorem crcShift_iterate_one_eq_iff : ∀ n < 48, 0 < n →
    ((crcShift 0x83)^[n] 0x01 = 0x01 ↔ n = 14 ∨ n = 28 ∨ n = 42) := by
  decide +kernel

/-- Two bits have one residue when the iterations between them bring the candidate 1 back. -/
theorem residue_oneBit_eq_iff {i j : Nat} (hij : i < j) (hj : j < 48) :
    residue (oneBit i) = residue (oneBit j) ↔ j - i = 14 ∨ j - i = 28 ∨ j - i = 42 := by
  have hsplit : 55 - i = 55 - j + (j - i) := by omega
  rw [residue_oneBit i (hij.trans hj), residue_oneBit j hj, hsplit, Function.iterate_add_apply,
    (crcShift_iterate_injective _).eq_iff]
  exact crcShift_iterate_one_eq_iff (j - i) (by omega) (by omega)

/-- Settles O35: a flip adds its bit's residue, which is never zero and is shared at distances 14, 28
and 42 only. -/
theorem singleAndDoubleBitErrors : Obligations.SingleAndDoubleBitErrors := by
  refine ⟨fun f hvalid => ⟨fun i hi => ?_, fun i j hij hj => ?_⟩, by decide +kernel, ?_, by decide⟩
  · have hzero := (frameValid_iff_residue f).mp hvalid
    rw [Bool.eq_false_iff, Ne, frameValid_iff_residue, residue_flipBit, hzero, BitVec.zero_xor]
    exact residue_oneBit_ne_zero hi
  · have hzero := (frameValid_iff_residue f).mp hvalid
    rw [frameValid_iff_residue, residue_flipBit, residue_flipBit, hzero, BitVec.zero_xor]
    exact BitVec.xor_eq_zero_iff.trans (residue_oneBit_eq_iff hij hj)
  · rw [frameValid_bytes_iff, crc8_buildTable]
    decide +kernel

end Sys2Proof.Machine

/-!
The control commands (spec/42_control.md): NOP, and RD.REG through the register view of R30.
-/

namespace Sys2Proof.Machine

open Sys2Proof.Claims

/-- Settles O39: NOP, as a command and as the all-zero word. -/
theorem nopWritesNothing : Obligations.NopWritesNothing := by
  intro s
  have hcmd : command Config.params .nop s.engine = (s.engine, 0x00000000) := rfl
  exact ⟨exec_of_command hcmd, wordRuns_encode hcmd, reservedBitsRefused_of_lt s 0x00 (by decide)⟩

/-- `FCNT` in the response's data field, by its fields (R30, R31). -/
theorem zext16_fcntView (fovf : Bool) (n : BitVec 3) :
    zext16 (fcntView fovf n) = 0x00#8 ++ (BitVec.ofBool fovf ++ 0b0000#4 ++ n) :=
  zext16_eq_append _

/-- `FSTAT` in the response's data field (R30). -/
theorem zext16_fstatView (f : BitVec 5) : zext16 (fstatView f) = 0x00#8 ++ (0b000#3 ++ f) :=
  zext16_eq_append _

section
variable (p : Params) {e : Engine} {r : Byte}

/-- R171 for a register of the view, with the response word written out. -/
theorem command_rdReg_of_view {d : Half} (hview : regView p e r = some d) :
    command p (.rdReg r) e = (e, 0x00#8 ++ 0x09#8 ++ d) := by
  simp only [command, rdReg, hview]
  rfl

/-- R171 for a reserved register number. -/
theorem command_rdReg_of_reserved (hr : 0x10 ≤ r.toNat) :
    command p (.rdReg r) e = (e, 0x03090000) := by
  obtain ⟨d, hview, -⟩ | ⟨-, heq⟩ := rdReg_cases p r e
  · have hlt := regView_isSome p e r
    simp only [hview, Option.isSome_some] at hlt
    exact absurd (of_decide_eq_true hlt.symm) (Nat.not_lt.mpr hr)
  · exact heq

end

/-- Settles O40: each listed value is the view of its register, which RD.REG answers. -/
theorem rdRegAnswersTheView : Obligations.RdRegAnswersTheView := by
  refine fun s => ⟨fun x hx => ?_, fun r hr => ?_, reservedBitsRefused_of_lt s 0x09 (by decide)⟩
  · have hview : regView Config.params s.engine x.1 = some x.2 := by
      simp only [← zext16_fcntView, ← zext16_fstatView, ← zext16_eq_append,
        List.mem_cons, List.not_mem_nil, or_false] at hx
      obtain rfl | rfl | rfl | rfl | rfl | rfl | rfl | rfl | rfl | rfl | rfl | rfl | rfl | rfl | rfl |
        rfl := hx <;> rfl
    have hcmd := command_rdReg_of_view Config.params hview
    exact ⟨exec_of_command hcmd, wordRuns_encode (i := .rdReg x.1) hcmd⟩
  · have hcmd : command Config.params (.rdReg r) s.engine = (s.engine, 0x03090000) :=
      command_rdReg_of_reserved Config.params hr
    exact ⟨exec_of_command hcmd, wordRuns_encode (i := .rdReg r) hcmd⟩

end Sys2Proof.Machine

/-!
Status codes and their priority (spec/60_exceptions.md): the two ways a command ends, the order in which
its statuses apply, and the engine with no move of the host.
-/

namespace Sys2Proof.Machine

open Sys2Proof.Claims

/-! ### The two ways a command ends (R9, R201) -/

/-- `Answer op e x`: the effect and response `x` end a command of opcode `op` on the engine `e` in one of
the two ways of R9. -/
inductive Answer (op : Byte) (e : Engine) : Engine × RspWord → Prop where
  /-- A command error raises. -/
  | raised (st : Status) : st.isCommandError = true → Answer op e (raise op st e)
  /-- A success or an outcome responds after the command's writes. -/
  | responded (st : Status) (d : Half) (e' : Engine) : st.isCommandError = false →
      Answer op e (respond op st d e')

theorem frmPush_answer (b : Byte) (e : Engine) : Answer 0x04 e (frmPush b e) := by
  obtain ⟨_, heq⟩ | ⟨_, heq⟩ := frmPush_cases b e <;> rw [heq]
  · exact .responded .ok _ _ rfl
  · exact .responded .bufOverflow _ _ rfl

theorem frmDecode_answer (p : Params) (e : Engine) : Answer 0x06 e (frmDecode p e) := by
  obtain ⟨-, heq⟩ | ⟨-, -, heq⟩ | ⟨-, -, -, heq⟩ | ⟨-, -, -, heq⟩ := frmDecode_cases p e <;> rw [heq]
  · exact .responded .formatError _ _ rfl
  · exact .responded .breakSeen _ _ rfl
  · exact .responded .ok _ _ rfl
  · exact .responded .checksumMismatch _ _ rfl

theorem rdReg_answer (p : Params) (r : Byte) (e : Engine) : Answer 0x09 e (rdReg p r e) := by
  obtain ⟨d, -, heq⟩ | ⟨-, heq⟩ := rdReg_cases p r e <;> rw [heq]
  · exact .responded .ok d e rfl
  · exact .raised .badRegnum rfl

theorem command_answer (p : Params) (i : Instr) (e : Engine) :
    Answer (opcodeOf i) e (command p i e) := by
  cases i with
  | frmPush b => exact frmPush_answer b e
  | frmDecode => exact frmDecode_answer p e
  | rdReg r => exact rdReg_answer p r e
  | _ => exact .responded .ok _ _ rfl

theorem cmdStep_answer (p : Params) (e : Engine) (w : CmdWord) :
    Answer (opField w) e (cmdStep p e w) := by
  cases hd : decode w with
  | instr i =>
    obtain rfl := encodeOfDecodeIsTheWord w i hd
    rw [opField_encode, cmdStep_encode]
    exact command_answer p i e
  | illegalOpcode =>
    rw [cmdStep_of_illegalOpcode p e w hd]
    exact .raised .illegalOpcode rfl
  | reservedField =>
    rw [cmdStep_of_reservedField p e w hd]
    exact .raised .reservedField rfl

/-- Both ways echo the opcode (R73). -/
theorem Answer.rspOpe_eq {op : Byte} {e : Engine} {x : Engine × RspWord} (h : Answer op e x) :
    rspOpe x.2 = op := by
  cases h with
  | raised st _ => exact rspOpe_rspWord st op _
  | responded st d e' _ => exact rspOpe_rspWord st op d

/-- The codes of the command errors (R200). -/
theorem isCommandError_of_code (st : Status)
    (h : st.code = 0x01#8 ∨ st.code = 0x02#8 ∨ st.code = 0x03#8) : st.isCommandError = true := by
  cases st <;> revert h <;> decide

/-- Only a raise answers with a command error. -/
theorem Answer.of_commandError {op : Byte} {e : Engine} {x : Engine × RspWord} (h : Answer op e x)
    (hst : rspSt x.2 = 0x01#8 ∨ rspSt x.2 = 0x02#8 ∨ rspSt x.2 = 0x03#8) :
    x.1 = e ∧ rspData x.2 = 0x0000#16 := by
  cases h with
  | raised st _ => exact ⟨rfl, rspData_rspWord st op _⟩
  | responded st d e' hok =>
    simp only [respond, rspSt_rspWord] at hst
    exact absurd (isCommandError_of_code st hst) (Bool.eq_false_iff.mp hok)

/-- Settles O12: a step on a word answers as `cmdStep`, which raises its command errors. -/
theorem commandErrorWritesNothing : Obligations.CommandErrorWritesNothing := by
  intro s t w rest r h hr hst
  have hl : s.engine.legal = true := (step_next_cases _ t h).1
  obtain rfl := Host.Outcome.next.inj ((stepIsTheStepRelation s w hl rest).symm.trans h)
  obtain rfl := List.singleton_inj.mp (List.append_cancel_left hr)
  exact (cmdStep_answer Config.params s.engine w).of_commandError hst

/-! ### The order of the statuses (R203, R135) -/

/-- A word decodes to a command when neither of the first two statuses of R203 applies. -/
theorem exists_decode_instr_iff (w : CmdWord) :
    (∃ i, decode w = .instr i) ↔
      (opField w).toNat < 0x0A ∧ w &&& mustBeZero (opField w).toNat = 0 := by
  have opcode_lt : ∀ row ∈ opcodeTable, row.opcode.toNat < 0x0A := by decide
  obtain ⟨hge, hill⟩ | ⟨row, hrow, hop, heq⟩ := decode_cases w
  · simp [hill, Nat.not_lt.mpr hge]
  · rw [heq, hop, ← row_fits_iff w row hrow hop]
    by_cases hfit : w &&& row.mask = row.pattern <;> simp [hfit, opcode_lt row hrow]

theorem rspSt_frmPush (b : Byte) (e : Engine) :
    rspSt (frmPush b e).2 = if ¬ e.fcount.toNat < 6 then 0x05 else 0x00 := by
  obtain ⟨hlt, heq⟩ | ⟨hfull, heq⟩ := frmPush_cases b e <;> rw [heq, rspSt_rspWord]
  · exact (if_neg (not_not.mpr hlt)).symm
  · exact (if_pos hfull).symm

theorem rspSt_rdReg (p : Params) (r : Byte) (e : Engine) :
    rspSt (rdReg p r e).2 = if 0x10 ≤ r.toNat then 0x03 else 0x00 := by
  by_cases hr : 0x10 ≤ r.toNat
  · have heq : rdReg p r e = raise 0x09 .badRegnum e := command_rdReg_of_reserved p hr
    rw [heq]
    exact (rspSt_rspWord ..).trans (if_pos hr).symm
  · obtain ⟨d, -, heq⟩ | ⟨hres, -⟩ := rdReg_cases p r e
    · rw [heq, rspSt_rspWord]
      exact (if_neg hr).symm
    · exact absurd hres hr

/-- The order of R135. -/
theorem rspSt_frmDecode (e : Engine) :
    rspSt (frmDecode Config.params e).2 =
      if e.fcount ≠ 6 ∨ e.fovf = true then 0x04
      else if holdsBreak e then 0x07
      else if bufferCrc e ≠ e.fbuf[5] then 0x06
      else 0x00 := by
  simp only [← Engine.wrongLength_iff, ← isBreak_iff_holdsBreak, ne_eq, ← frameValid_iff_bufferCrc]
  obtain ⟨hlen, heq⟩ | ⟨hlen, hbreak, heq⟩ | ⟨hlen, hbreak, hvalid, heq⟩ |
    ⟨hlen, hbreak, hvalid, heq⟩ := frmDecode_cases Config.params e <;> rw [heq, rspSt_rspWord]
  · simp [hlen, Status.code]
  · simp [hlen, hbreak, Status.code]
  · simp [hlen, hbreak, hvalid, Status.code]
  · simp [hlen, hbreak, hvalid, Status.code]

/-- Past the decoder three commands have a status to choose; the others answer OK. -/
theorem rspSt_command (i : Instr) (e : Engine) :
    rspSt (command Config.params i e).2 = statusByPriority e (encode i) := by
  obtain ⟨hlt, hzero⟩ := (exists_decode_instr_iff (encode i)).mp ⟨i, decode_encode i⟩
  rw [opField_encode] at hlt hzero
  have hop : (encode i).extractLsb' 56 8 = opcodeOf i := opField_encode i
  simp only [statusByPriority, hop, if_neg (Nat.not_le.mpr hlt), hzero, ne_eq, not_true_eq_false,
    if_false]
  cases i with
  | frmPush b => simpa [opcodeOf, command] using rspSt_frmPush b e
  | frmDecode => simpa [opcodeOf, command] using rspSt_frmDecode e
  | rdReg r =>
    have hr : (encode (.rdReg r)).extractLsb' 48 8 = r := b0Field_oneByte 0x09 r
    simpa [opcodeOf, command, hr] using rspSt_rdReg Config.params r e
  | _ =>
    refine (rspSt_rspWord .ok _ _).trans ?_
    simp [opcodeOf, Status.code]

/-- The decoder's two errors come first, as in R203. -/
theorem rspSt_cmdStep (e : Engine) (w : CmdWord) :
    rspSt (cmdStep Config.params e w).2 = statusByPriority e w := by
  by_cases hop : 0x0A ≤ (opField w).toNat
  · rw [cmdStep_of_illegalOpcode _ e w (decode_of_opcode_ge w hop)]
    exact (rspSt_rspWord ..).trans (if_pos hop).symm
  · by_cases hzero : w &&& mustBeZero (opField w).toNat = 0
    · obtain ⟨i, hd⟩ := (exists_decode_instr_iff w).mpr ⟨Nat.not_le.mp hop, hzero⟩
      obtain rfl := encodeOfDecodeIsTheWord w i hd
      rw [cmdStep_encode, rspSt_command]
    · rw [cmdStep_of_reservedField _ e w (decode_of_mustBeZero_ne w (Nat.not_le.mp hop) hzero)]
      exact (rspSt_rspWord ..).trans ((if_neg hop).trans (if_pos hzero)).symm

/-- Settles O11: the step answers as `cmdStep`, whose statuses come in the order of R203. -/
theorem everyWordIsAnsweredByPriority : Obligations.EveryWordIsAnsweredByPriority := fun s w rest hl =>
  ⟨_, _, stepIsTheStepRelation s w hl rest, rfl, rfl, rspSt_cmdStep s.engine w,
    (cmdStep_answer Config.params s.engine w).rspOpe_eq⟩

/-! ### No move of the host (R214) -/

theorem step_of_no_move (s : State) (hl : s.engine.legal = true) (hi : s.input = []) :
    step s = .next s := by
  simp [step, hl, hi]

/-- Settles O14: a legal engine with no move waiting answers its own state. -/
theorem idleEngineHoldsItsState : Obligations.IdleEngineHoldsItsState :=
  fun s hl => step_of_no_move (s.withMoves []) hl rfl

end Sys2Proof.Machine

/-!
Reset and hazards (spec/70_reset_and_hazards.md): a command aborted by `rst`, and how long `FSTAT` and
the result registers last.
-/

namespace Sys2Proof.Machine

/-! ### `rst` with a command in flight (R231) -/

/-- A legal engine meets an aborted command with `hostReset`; its word is never decoded. -/
theorem step_abort (s : State) (w : CmdWord) (rest : List HostMove) (hl : s.engine.legal = true) :
    step (s.withMoves (.abort w :: rest)) = .next (s.withMoves rest).hostReset :=
  step_of_move (s.withMoves (.abort w :: rest)) (.abort w) rest hl rfl

/-- Settles O42: the abort and the reset meet in `hostReset`. -/
theorem abortedCommandLeavesTheResetState : Obligations.AbortedCommandLeavesTheResetState := by
  intro s w rest hl
  have habort := step_abort s w rest hl
  have hreset : step (s.withMoves (.reset :: rest)) = .next (s.withMoves rest).hostReset :=
    resetSetsEveryRegister.1 s rest hl
  exact ⟨habort.trans hreset.symm, _, habort, rfl, rfl, rfl⟩

/-! ### How long `FSTAT` and the results last (R234, R235) -/

theorem opcodeOf_eq_frmDecode_iff (i : Instr) : opcodeOf i = 0x06#8 ↔ i = .frmDecode := by
  cases i <;> simp [opcodeOf]

theorem opcodeOf_eq_frmClear_iff (i : Instr) : opcodeOf i = 0x07#8 ↔ i = .frmClear := by
  cases i <;> simp [opcodeOf]

/-- All four paths of R138 set `FSTAT.DONE`. -/
theorem frmDecode_fstatDone (p : Params) (e : Engine) : fstatDone (frmDecode p e).1.fstat = true := by
  obtain ⟨-, heq⟩ | ⟨-, -, heq⟩ | ⟨-, -, -, heq⟩ | ⟨-, -, -, heq⟩ := frmDecode_cases p e <;>
    rw [heq, Engine.setFstat_fstat] <;> decide

/-- The two effects that write the results set `FSTAT.FRAME`. -/
theorem Effect.results_eq_of_frame_clear {op : Byte} {e e' : Engine} (h : Effect op e e')
    (hframe : fstatFrame e'.fstat = false) :
    e'.resIndex = e.resIndex ∧ e'.resEnc = e.resEnc ∧ e'.resStp = e.resStp ∧
      e'.resCrcCalc = e.resCrcCalc ∧ e'.resCrcRecv = e.resCrcRecv := by
  cases h with
  | extractValid => exact absurd hframe (show fstatFrame fstatValid ≠ false by decide)
  | extractMismatch => exact absurd hframe (show fstatFrame fstatMismatch ≠ false by decide)
  | _ => simp

/-- Settles O49: only the effects of FRM.DECODE and FRM.CLEAR write `FSTAT`, and only those that set
`FSTAT.FRAME` write the results. -/
theorem resultsStayUntilTheNextExtraction : Obligations.ResultsStayUntilTheNextExtraction := by
  intro i s t h
  rw [exec_eq_complete, complete_eq_next_iff] at h
  subst h
  have heff := command_effect Config.params i s.engine
  refine ⟨fun hi => heff.fstat_eq ?_, ?_, ?_⟩
  · simpa [opcodeOf_eq_frmDecode_iff, opcodeOf_eq_frmClear_iff] using hi
  · rintro rfl
    exact frmDecode_fstatDone Config.params s.engine
  · rintro (hi | hframe)
    · exact heff.results_eq (mt (opcodeOf_eq_frmDecode_iff i).mp hi)
    · exact heff.results_eq_of_frame_clear hframe

end Sys2Proof.Machine
